-- ==== Sys2Proof/Word.lean ====
section
/-! DEFINITION. The word types of the CHIP-8 core: bytes, 16-bit words, 12-bit addresses, and the
index types of the register file, the keypad and the screen (spec/00_scope.md R8, R9, R10).
Everything is unsigned. -/

namespace Sys2Proof

/-- An 8-bit unsigned value: a V register, a timer, a byte of memory (R8, R10). -/
abbrev Byte := BitVec 8

/-- A 16-bit unsigned value: `pc`, `I`, a stack entry, an instruction word (R8, R9). -/
abbrev Word := BitVec 16

/-- The 12-bit address field `NNN` of an instruction (R14, R73). -/
abbrev Addr12 := BitVec 12

/-- The number of a general register, 0 to 15 (R20, R73). -/
abbrev Reg := Fin 16

/-- The number of a key, 0x0 to 0xF (R35). -/
abbrev Key := Fin 16

/-- A column of the screen, 0 to 63 (R34). -/
abbrev Column := Fin 64

/-- A row of the screen, 0 to 31 (R34). -/
abbrev Row := Fin 32

/-- The coordinates `(x, y)` of a pixel: column, then row (R34). -/
abbrev Pixel := Column × Row

end Sys2Proof
end

