-- ==== Sys2Proof/Syntax.lean ====
section
/-! DEFINITION. The instructions: one constructor per row of spec/opcode_table.json, in the order of
the opcode map spec/30_encoding.md R86 (34 rows). -/

namespace Sys2Proof

/-- One constructor per row of R86. `x`, `y` are register numbers, `nn` the 8-bit immediate, `nnn` the
12-bit address, `n` the sprite height in rows (R72, R73). A register number, an immediate and an address
are as wide as their fields; the sprite height is a count, so it is a natural number that
`Instr.wellFormed` bounds. -/
inductive Instr where
  /-- 00E0 `CLS` (R105) -/
  | cls
  /-- 00EE `RET` (R120) -/
  | ret
  /-- 1NNN `JP nnn` (R122) -/
  | jp (nnn : Addr12)
  /-- 2NNN `CALL nnn` (R124) -/
  | call (nnn : Addr12)
  /-- 3XNN `SE Vx, nn` (R128) -/
  | seVxNn (x : Reg) (nn : Byte)
  /-- 4XNN `SNE Vx, nn` (R129) -/
  | sneVxNn (x : Reg) (nn : Byte)
  /-- 5XY0 `SE Vx, Vy` (R130) -/
  | seVxVy (x y : Reg)
  /-- 6XNN `LD Vx, nn` (R140) -/
  | ldVxNn (x : Reg) (nn : Byte)
  /-- 7XNN `ADD Vx, nn` (R142) -/
  | addVxNn (x : Reg) (nn : Byte)
  /-- 8XY0 `LD Vx, Vy` (R144) -/
  | ldVxVy (x y : Reg)
  /-- 8XY1 `OR Vx, Vy` (R145) -/
  | or (x y : Reg)
  /-- 8XY2 `AND Vx, Vy` (R146) -/
  | and (x y : Reg)
  /-- 8XY3 `XOR Vx, Vy` (R147) -/
  | xor (x y : Reg)
  /-- 8XY4 `ADD Vx, Vy` (R150) -/
  | addVxVy (x y : Reg)
  /-- 8XY5 `SUB Vx, Vy` (R152) -/
  | sub (x y : Reg)
  /-- 8XY7 `SUBN Vx, Vy` (R155) -/
  | subn (x y : Reg)
  /-- 8XY6 `SHR Vx, Vy` (R158) -/
  | shr (x y : Reg)
  /-- 8XYE `SHL Vx, Vy` (R161) -/
  | shl (x y : Reg)
  /-- 9XY0 `SNE Vx, Vy` (R131) -/
  | sneVxVy (x y : Reg)
  /-- ANNN `LD I, nnn` (R172) -/
  | ldINnn (nnn : Addr12)
  /-- BNNN `JP V0, nnn` (R134) -/
  | jpOff (nnn : Addr12)
  /-- CXNN `RND Vx, nn` (R163) -/
  | rnd (x : Reg) (nn : Byte)
  /-- DXYN `DRW Vx, Vy, n` (R109) -/
  | drw (x y : Reg) (n : Nat)
  /-- EX9E `SKP Vx` (R190) -/
  | skp (x : Reg)
  /-- EXA1 `SKNP Vx` (R192) -/
  | sknp (x : Reg)
  /-- FX07 `LD Vx, DT` (R196) -/
  | ldVxDt (x : Reg)
  /-- FX0A `LD Vx, K` (R198) -/
  | ldVxK (x : Reg)
  /-- FX15 `LD DT, Vx` (R201) -/
  | ldDtVx (x : Reg)
  /-- FX18 `LD ST, Vx` (R203) -/
  | ldStVx (x : Reg)
  /-- FX1E `ADD I, Vx` (R175) -/
  | addIVx (x : Reg)
  /-- FX29 `LD F, Vx` (R178) -/
  | ldFVx (x : Reg)
  /-- FX33 `LD B, Vx` (R181) -/
  | ldBVx (x : Reg)
  /-- FX55 `LD [I], Vx` (R184) -/
  | ldMiVx (x : Reg)
  /-- FX65 `LD Vx, [I]` (R186) -/
  | ldVxMi (x : Reg)
  deriving DecidableEq, Repr

end Sys2Proof
end

