-- ==== Sys2Proof/WellFormed.lean ====
section
/-! DEFINITION. Which instruction terms are instructions of the hardware: those whose operands fit their
encoding fields (spec/30_encoding.md R72, R73). -/

namespace Sys2Proof

/-- The sprite height of DXYN is a 4-bit count, 0 to 15 (R73). Every other operand has a type exactly as
wide as its field and all its values are legal (R73), so no other constructor has a check. -/
def Instr.wellFormed : Instr → Bool
  | .drw _ _ n => decide (n ≤ 15)
  | .cls | .ret | .jp _ | .call _ | .seVxNn _ _ | .sneVxNn _ _ | .seVxVy _ _ | .ldVxNn _ _
  | .addVxNn _ _ | .ldVxVy _ _ | .or _ _ | .and _ _ | .xor _ _ | .addVxVy _ _ | .sub _ _
  | .subn _ _ | .shr _ _ | .shl _ _ | .sneVxVy _ _ | .ldINnn _ | .jpOff _ | .rnd _ _ | .skp _
  | .sknp _ | .ldVxDt _ | .ldVxK _ | .ldDtVx _ | .ldStVx _ | .addIVx _ | .ldFVx _ | .ldBVx _
  | .ldMiVx _ | .ldVxMi _ => true

end Sys2Proof
end

