-- ==== Sys2Proof/Config.lean ====
section
/-! DEFINITION. What is fixed for a run: the constants of spec/00_scope.md R8, the parameters of the
model (the four quirk toggles, STACK_LIMIT, FONT_BASE, FONT_DATA, IPS), and the one free value, the
environment's random byte. -/

namespace Sys2Proof

/-- `MEM_SIZE`: addresses 0x000 to 0xFFF (R8, R50). -/
def memSize : Nat := 0x1000

/-- `PROGRAM_START`: where the ROM is loaded and where execution begins (R8, R23). -/
def programStart : Nat := 0x200

/-- The two values of a quirk toggle (R2, R30). -/
inductive Quirk where
  | new
  | old
  deriving DecidableEq, Repr

/-- The parameters of a run (R18, R30, R31): arguments of the model, fixed for the run. The model carries
them in `State.cfg`, which no step writes (notes/assumptions/1.md). -/
structure Params where
  /-- `cfg.shift`: the shift source of 8XY6 and 8XYE (R30) -/
  shift : Quirk
  /-- `cfg.jump`: the register BNNN adds (R30) -/
  jump : Quirk
  /-- `cfg.index_overflow`: whether FX1E reports overflow in VF (R30) -/
  indexOverflow : Quirk
  /-- `cfg.index_increment`: whether FX55 and FX65 advance `I` (R30) -/
  indexIncrement : Quirk
  /-- `STACK_LIMIT`: `none` is unbounded (R8, R29) -/
  stackLimit : Option Nat
  /-- `FONT_BASE`: where glyph 0 begins (R8, R40) -/
  fontBase : Nat
  /-- `FONT_DATA`: the 80 font bytes in address order (R8, R39, R41) -/
  fontData : Vector Byte 80
  /-- `IPS`: instructions per second. No rule reads it (R8, R226, R252). -/
  ips : Nat
  deriving DecidableEq, Repr

/-- The constraints R8 puts on the parameters: a stack depth is at least 1, and the font lies below the
program. -/
def Params.wf (p : Params) : Bool :=
  decide (p.fontBase + 80 ≤ programStart) &&
    match p.stackLimit with
    | none => true
    | some n => decide (1 ≤ n)

/-- FREE VALUE. The byte the environment chooses for the draw numbered `k` (R163, R165): any byte, with
no law. It has no body, so nothing can be proved of its value (notes/assumptions/4.md). -/
opaque Config.randomByte (k : Nat) : Byte

end Sys2Proof
end

