-- ==== Sys2Proof/Machine/Defaults.lean ====
section
/-! DEFINITION. The default values of the parameters, and what a byte of memory that nothing has written
reads as: the reset contents of memory (spec/10_state.md R39, R40, R41, R43). -/

namespace Sys2Proof.Machine

/-- `FONT_BASE`: the spec's default, decision D2 (R40; notes/assumptions/2.md). -/
def defaultFontBase : Nat := 0x050

/-- `FONT_DATA`: the default font of R41, five bytes a glyph, top row first; general knowledge, decision
D3 (notes/assumptions/2.md). -/
def defaultFontData : Vector Byte 80 :=
  (#v[0xF0, 0x90, 0x90, 0x90, 0xF0, 0x20, 0x60, 0x20, 0x20, 0x70, 0xF0, 0x10, 0xF0, 0x80, 0xF0, 0xF0, 0x10, 0xF0, 0x10, 0xF0] : Vector Byte 20) ++
  (#v[0x90, 0x90, 0xF0, 0x10, 0x10, 0xF0, 0x80, 0xF0, 0x10, 0xF0, 0xF0, 0x80, 0xF0, 0x90, 0xF0, 0xF0, 0x10, 0x20, 0x40, 0x40] : Vector Byte 20) ++
  (#v[0xF0, 0x90, 0xF0, 0x90, 0xF0, 0xF0, 0x90, 0xF0, 0x10, 0xF0, 0xF0, 0x90, 0xF0, 0x90, 0x90, 0xE0, 0x90, 0xE0, 0x90, 0xE0] : Vector Byte 20) ++
  (#v[0xF0, 0x80, 0x80, 0x80, 0xF0, 0xE0, 0x90, 0x90, 0x90, 0xE0, 0xF0, 0x80, 0xF0, 0x80, 0xF0, 0xF0, 0x80, 0xF0, 0x80, 0x80] : Vector Byte 20)

/-- The parameters `State.reset` holds: all toggles NEW and no stack limit, the conventions of
spec/95_test_vectors.md, and the spec's defaults (notes/assumptions/1.md, 2.md). -/
def defaultParams : Params where
  shift := .new
  jump := .new
  indexOverflow := .new
  indexIncrement := .new
  stackLimit := none
  fontBase := defaultFontBase
  fontData := defaultFontData
  ips := 700

/-- What an unlisted address reads as: its byte at reset under the default parameters, the font at
`FONT_BASE` and 0 elsewhere (R36, R43; notes/assumptions/3.md). -/
def resetByte (a : Nat) : Byte :=
  if defaultFontBase ≤ a then defaultFontData.toList.getD (a - defaultFontBase) 0 else 0

end Sys2Proof.Machine
end

