-- ==== Sys2Proof/Machine/State.lean ====
section
/-! DEFINITION. The state of the machine as plain data (spec/10_state.md), what can stop a step, and the
state after reset (R43). -/

namespace Sys2Proof.Machine

/-- The five faults of the core (spec/60_exceptions.md R211). -/
inductive FaultCause where
  /-- raised by the decoding of any word that matches no row (R95) -/
  | unimplementedInstruction
  /-- raised by 00EE with an empty stack (R120) -/
  | stackUnderflow
  /-- raised by the fetch, DXYN, FX33, FX55, FX65 on an address at or above `MEM_SIZE` (R55, R92) -/
  | outOfBounds
  /-- raised by 2NNN on a full stack of bounded depth (R126) -/
  | stackOverflow
  /-- raised by EX9E, EXA1 on a key index above 0xF (R194) -/
  | keyIndexOutOfRange
  deriving DecidableEq, Repr

/-- The fault record `{code, pc, instruction?, addr?, key?}` (R213). The code is the cause's
(`FaultCause.code`). -/
structure FaultRecord where
  cause : FaultCause
  pc : Word
  instruction : Option Word
  addr : Option Nat
  key : Option Byte
  deriving DecidableEq, Repr

/-- `halted` (R37). -/
inductive Halt where
  | running
  | faulted (record : FaultRecord)
  deriving DecidableEq, Repr

/-- What the core emits to the display collaborator (R108): `Clear`, or `Changed(list)` with the toggled
pixels in order. -/
inductive DisplayEvent where
  | clear
  | changed (pixels : List Pixel)
  deriving DecidableEq, Repr

/-- One step of one agent (R18, R100, R226). -/
inductive Turn where
  /-- the core runs one instruction (R90) -/
  | core
  /-- the timer ticks (R205) -/
  | tick
  /-- the host replaces the keypad snapshot (R35, R98) -/
  | refreshKeys (keys : Vector Bool 16)
  /-- the host requests quit (R222) -/
  | requestQuit
  /-- the host consumes the oldest display event (R18, R226) -/
  | takeEvent
  deriving DecidableEq, Repr

/-- The 4096 bytes of memory (R36, R50), as the cells that differ from their reset byte, addresses
strictly rising (`Memory.wf`). -/
structure Memory where
  cells : List Host.Cell
  deriving DecidableEq, Repr

/-- The state: the tuple of spec/10_state.md, the parameters, the display events not yet consumed, the
quit request, and the model's own `draws` and `schedule` (INVENTORY.md, State). -/
structure State where
  /-- `V[0]..V[15]` (R20) -/
  v : Vector Byte 16
  /-- `I` (R25) -/
  i : Word
  /-- the program counter (R23) -/
  pc : Word
  /-- `DT`, the delay timer (R26) -/
  dt : Byte
  /-- `ST`, the sound timer (R27) -/
  st : Byte
  /-- the call stack, top first (R28) -/
  stack : List Word
  /-- memory (R36) -/
  mem : Memory
  /-- `screen[x][y]` (R34) -/
  screen : Vector (Vector Bool 32) 64
  /-- the keypad snapshot (R35) -/
  keys : Vector Bool 16
  /-- `halted` (R37) -/
  halted : Halt
  /-- the parameters of the run (R18, R30); no step writes them -/
  cfg : Params
  /-- the display events emitted and not yet consumed, oldest first (R108, R226) -/
  events : List DisplayEvent
  /-- whether quit has been requested (R222) -/
  quit : Bool
  /-- MODEL'S OWN: the number of random draws so far (R165) -/
  draws : Nat
  /-- MODEL'S OWN: the coming turns of the agents, next first; empty means the core's turn (R100) -/
  schedule : List Turn
  deriving DecidableEq, Repr

/-- Why a step of the machine does not happen. The faults of R211 are no such stops: their entry is a next
state. -/
inductive Fault where
  /-- Raised by `step` when it is the core's turn and the core is halted by a fault: "A core in faulted
  state takes no further step" (R37, R214). Safe: the spec gives no step here. -/
  | coreFaulted (record : FaultRecord)
  /-- Raised by `step` when it is the core's turn after a quit request: "After it no core step is taken"
  (R222, R98). Safe: the spec gives no step here. -/
  | quitRequested
  deriving DecidableEq, Repr

/-- Why the model has no meaning for an instruction. -/
inductive Refusal where
  /-- Would be raised by `exec` on an instruction that has no meaning yet; every instruction has one, so
  nothing raises it. Safe. -/
  | notModelled (mnemonic : String)
  deriving DecidableEq, Repr

/-- The load errors (R212, R242): the core never runs after one. -/
inductive RomLoadError where
  /-- the ROM's source cannot be read -/
  | romIoError
  /-- the image does not fit at 0x200 -/
  | romTooLarge
  deriving DecidableEq, Repr

/-- Memory with nothing listed. -/
def Memory.empty : Memory := ⟨[]⟩

/-- A screen with every pixel off (R34). -/
def blankScreen : Vector (Vector Bool 32) 64 := Vector.replicate 64 (Vector.replicate 32 false)

/-- The state right after reset, with no ROM loaded (R43, R240). `State.boot` gives the state a run with a
ROM begins in. -/
def State.reset : State where
  v := Vector.replicate 16 0
  i := 0
  pc := 0x200
  dt := 0
  st := 0
  stack := []
  mem := Memory.empty
  screen := blankScreen
  keys := Vector.replicate 16 false
  halted := .running
  cfg := defaultParams
  events := []
  quit := false
  draws := 0
  schedule := []

end Sys2Proof.Machine
end

