-- ==== Sys2Proof/Machine/Ops.lean ====
section
/-! DEFINITION. The named operations over registers, memory, the screen and the stack, and the entry into
a fault, shared by every instruction (spec/20_memory.md, spec/60_exceptions.md R213, R214). -/

namespace Sys2Proof.Machine

/-- The outcome of a step of this machine. -/
abbrev Result := Host.Outcome State Fault Refusal

/-! ### Registers -/

/-- `V[x]` (R11, R20) -/
def State.getV (s : State) (x : Reg) : Byte := s.v[x]

/-- `V[x] <- b` (R11, R20) -/
def State.setV (s : State) (x : Reg) (b : Byte) : State := { s with v := s.v.set x b }

/-- `VF` is `V[15]` (R11, R21). -/
def vf : Reg := 15

/-- `VF <- b` -/
def State.setVF (s : State) (b : Byte) : State := s.setV vf b

/-- `I <- w` -/
def State.setI (s : State) (w : Word) : State := { s with i := w }

/-- `pc <- w` -/
def State.setPc (s : State) (w : Word) : State := { s with pc := w }

/-- `DT <- b` -/
def State.setDt (s : State) (b : Byte) : State := { s with dt := b }

/-- `ST <- b` -/
def State.setSt (s : State) (b : Byte) : State := { s with st := b }

/-- the call stack becomes `l` (R28) -/
def State.setStack (s : State) (l : List Word) : State := { s with stack := l }

/-- memory becomes `m` -/
def State.setMem (s : State) (m : Memory) : State := { s with mem := m }

/-- the screen becomes `sc` -/
def State.setScreen (s : State) (sc : Vector (Vector Bool 32) 64) : State := { s with screen := sc }

/-- the number of draws becomes `n` -/
def State.setDraws (s : State) (n : Nat) : State := { s with draws := n }

/-- `emit e` (R13, R108): the event joins those the host has not consumed. -/
def State.emit (s : State) (e : DisplayEvent) : State := { s with events := s.events ++ [e] }

/-- The registers `V[0]..V[n-1]` in order, as FX55 stores them (R184). -/
def State.firstV (s : State) (n : Nat) : List Byte := s.v.toList.take n

/-- `V[k] <- bytes[k]` for every `k` below the number of bytes, as FX65 loads them (R186). -/
def State.loadV (s : State) (bytes : List Byte) : State :=
  { s with v := s.v.mapIdx fun k old => bytes.getD k old }

/-! ### Memory (R50 to R57) -/

/-- The byte listed for an address, or its reset byte. -/
def lookupCell (a : Nat) : List Host.Cell → Byte
  | [] => resetByte a
  | (a', b) :: rest => if a = a' then b else lookupCell a rest

/-- Puts a cell in front unless it holds what an unlisted address reads as. -/
def consCell (a : Nat) (b : Byte) (rest : List Host.Cell) : List Host.Cell :=
  if b = resetByte a then rest else (a, b) :: rest

/-- Writes a cell into a rising list. -/
def putCell (a : Nat) (b : Byte) : List Host.Cell → List Host.Cell
  | [] => consCell a b []
  | (a', b') :: rest =>
    if a < a' then consCell a b ((a', b') :: rest)
    else if a = a' then consCell a b rest
    else (a', b') :: putCell a b rest

/-- The byte at an address (R57). -/
def Memory.byteAt (m : Memory) (a : Nat) : Byte := lookupCell a m.cells

/-- Writes one byte and changes only that byte (R57). There is no byte at or above `MEM_SIZE`, and every
store is checked first (`Memory.store`). -/
def Memory.setByte (m : Memory) (a : Nat) (b : Byte) : Memory :=
  if a < memSize then ⟨putCell a b m.cells⟩ else m

/-- The bytes at `a .. a+n-1`, in order. -/
def Memory.bytesAt (m : Memory) (a : Nat) : Nat → List Byte
  | 0 => []
  | n + 1 => m.byteAt a :: m.bytesAt (a + 1) n

/-- Writes the bytes at `a`, `a+1`, ..., in order. -/
def Memory.setBytes (m : Memory) (a : Nat) : List Byte → Memory
  | [] => m
  | b :: rest => (m.setByte a b).setBytes (a + 1) rest

/-- The lowest address of `a .. a+n-1` at or above `MEM_SIZE`, if there is one (R55, R170). -/
def lowestOutside (a n : Nat) : Option Nat :=
  if 0 < n ∧ memSize ≤ a + n - 1 then some (max a memSize) else none

/-- `MemRead` (R12, R55): the `n` bytes at `a`, or the lowest address out of range. -/
def Memory.load (m : Memory) (a n : Nat) : Except Nat (List Byte) :=
  match lowestOutside a n with
  | some bad => .error bad
  | none => .ok (m.bytesAt a n)

/-- `MemWrite` (R12, R55): the bytes stored at `a`, or the lowest address out of range; every address is
checked before any write (R170). -/
def Memory.store (m : Memory) (a : Nat) (bytes : List Byte) : Except Nat Memory :=
  match lowestOutside a bytes.length with
  | some bad => .error bad
  | none => .ok (m.setBytes a bytes)

/-- `read_word`: big-endian, the high byte at the lower address (R51, R91). -/
def Memory.loadWord (m : Memory) (a : Nat) : Except Nat Word :=
  match m.load a 2 with
  | .ok _ => .ok (wordOfBytes (m.byteAt a) (m.byteAt (a + 1)))
  | .error bad => .error bad

/-- `write_word`: big-endian (R52); no instruction uses it. -/
def Memory.storeWord (m : Memory) (a : Nat) (w : Word) : Except Nat Memory := m.store a (bytesOfWord w)

/-- The addresses of a list of cells rise strictly from `lo` on, exist, and no cell holds its reset byte. -/
def cellsWf (lo : Nat) : List Host.Cell → Bool
  | [] => true
  | (a, b) :: rest => decide (lo ≤ a) && decide (a < memSize) && decide (b ≠ resetByte a) && cellsWf (a + 1) rest

/-- The canonical form of memory: equal memories are equal lists. -/
def Memory.wf (m : Memory) : Bool := cellsWf 0 m.cells

/-! ### Screen (R34) -/

/-- `screen[x][y]` -/
def State.pixel (s : State) (p : Pixel) : Bool := s.screen[p.1][p.2]

/-- `screen[x][y] <- not screen[x][y]` -/
def State.togglePixel (s : State) (p : Pixel) : State :=
  s.setScreen (s.screen.set p.1 (s.screen[p.1].set p.2 (!s.screen[p.1][p.2])))

/-- Toggles the pixels in order; the flag becomes true when one of them was on as its turn came
(R109, R110). -/
def State.drawPixels (s : State) (collided : Bool) : List Pixel → State × Bool
  | [] => (s, collided)
  | p :: rest => (s.togglePixel p).drawPixels (collided || s.pixel p) rest

/-! ### Skipping -/

/-- `if c then pc <- pc + 2`: the word passed over is neither fetched nor checked (R97). -/
def State.skipIf (s : State) (c : Bool) : State := if c then s.setPc (s.pc + 2) else s

/-! ### Taking a fault (R213, R214) -/

/-- The cause codes (R211, the spec's decision D16). -/
def FaultCause.code : FaultCause → Nat
  | .unimplementedInstruction => 1
  | .stackUnderflow => 2
  | .outOfBounds => 3
  | .stackOverflow => 4
  | .keyIndexOutOfRange => 5

/-- Fault entry (R214): everything holds what it held before the step, so `pc` is the address of the
instruction, and `halted <- faulted(record)`. `s` is a state in which the step has written nothing but the
advance of `pc`. There is no handler, and no instruction returns from a fault (R216). -/
def State.takeFault (s : State) (record : FaultRecord) : State :=
  { s with pc := record.pc, halted := .faulted record }

/-- The address `a` of the instruction being executed, in the state after the advance, where
`pc = a + 2` (R93). -/
def State.instrAddr (s : State) : Word := s.pc - 2

/-- `raise` inside the instruction `ins` (R13): the record holds the address `a`, the word fetched (which
is `ins`'s encoding) and the fields of the cause (R213). -/
def raise (s : State) (ins : Instr) (cause : FaultCause) (addr : Option Nat) (key : Option Byte) : Result :=
  .next (s.takeFault
    { cause := cause, pc := s.instrAddr, instruction := some (encode ins), addr := addr, key := key })

end Sys2Proof.Machine
end

