-- ==== Sys2Proof/Machine/Agents.lean ====
section
/-! DEFINITION. What the timer and the host do between core steps (spec/45_keypad_timers.md R205,
spec/60_exceptions.md R226), and how a run begins: reset, font and ROM (spec/70_reset_and_hazards.md R240
to R242). -/

namespace Sys2Proof.Machine

/-- One less, but never below 0 (R205). -/
def countDown (b : Byte) : Byte := if b = 0 then 0 else b - 1

/-- `Tick()` (R205) -/
def State.tick (s : State) : State := (s.setDt (countDown s.dt)).setSt (countDown s.st)

/-- The host replaces the keypad snapshot (R35, R226). -/
def State.refreshKeys (s : State) (keys : Vector Bool 16) : State := { s with keys := keys }

/-- The host requests quit; no core state changes (R222). -/
def State.requestQuit (s : State) : State := { s with quit := true }

/-- The host consumes the oldest display event (R18, R228). -/
def State.takeEvent (s : State) : State := { s with events := s.events.tail }

/-- Every byte of memory is 0 (R240 step 1): the default font is not yet there. -/
def Memory.zero : Memory := Memory.empty.setBytes defaultFontBase (List.replicate 80 0)

/-- Memory after the font is copied (R240 step 2, R241). -/
def bootMemory (p : Params) : Memory := Memory.zero.setBytes p.fontBase p.fontData.toList

/-- `load_rom` (R242): the image is copied verbatim to 0x200, or it does not fit. -/
def Memory.loadRom (m : Memory) (rom : List Byte) : Except RomLoadError Memory :=
  if memSize - programStart < rom.length then .error .romTooLarge
  else .ok (m.setBytes programStart rom)

/-- Reset (R240): the state in which a run with the parameters `p` and a ROM begins. `none` is a ROM whose
source cannot be read (R212). Reset is the only way out of a faulted state (R37, R216). -/
def State.boot (p : Params) (rom : Option (List Byte)) : Except RomLoadError State :=
  match rom with
  | none => .error .romIoError
  | some bytes =>
    match (bootMemory p).loadRom bytes with
    | .error e => .error e
    | .ok m => .ok { State.reset with cfg := p, mem := m }

/-- The state with a word placed where the core fetches next: the word at `pc`, the core running, no quit
request, and the core to move. Where no word can be fetched at `pc`, the word is placed at
`PROGRAM_START` and `pc` set there (notes/assumptions/9.md). -/
def State.placeWord (s : State) (w : Word) : State :=
  let at' : Word := if s.pc.toNat + 1 < memSize then s.pc else BitVec.ofNat 16 programStart
  { s with
    pc := at'
    mem := s.mem.setBytes at'.toNat (bytesOfWord w)
    halted := .running
    quit := false
    schedule := [] }

end Sys2Proof.Machine
end

