-- ==== Sys2Proof/Machine/Flags.lean ====
section
/-! DEFINITION. The values an instruction writes to VF as a flag (spec/10_state.md R33). There is no other
flag. -/

namespace Sys2Proof.Machine

/-- A flag in VF: 1 or 0. -/
def flagByte (c : Bool) : Byte := if c then 1 else 0

/-- 8XY4: 1 iff the unsigned sum exceeds 255 (R150). -/
def carryFlag (x y : Byte) : Byte := flagByte (decide (255 < x.toNat + y.toNat))

/-- 8XY5 and, with the operands exchanged, 8XY7: 1 iff no borrow, `x ≥ y` (R152, R155). -/
def noBorrowFlag (x y : Byte) : Byte := flagByte (decide (y.toNat ≤ x.toNat))

/-- 8XY6 and 8XYE: the low bit of VX before the instruction, in both directions and both quirk modes
(R158, R161; spec/90_conflicts.md C3). -/
def shiftFlag (x : Byte) : Byte := x &&& 1

/-- FX1E under `cfg.index_overflow = NEW`: whether the raw sum exceeds 0xFFF (R175). -/
def indexOverflows (i : Word) (x : Byte) : Bool := decide (0xFFF < i.toNat + x.toNat)

/-- A result to VX and then a flag to VF: the flag is the later write, so it is what VF holds when VX is VF
(R21, R99; spec/90_conflicts.md C4). -/
def State.setResultThenFlag (s : State) (x : Reg) (result flag : Byte) : State :=
  (s.setV x result).setVF flag

end Sys2Proof.Machine
end

