-- ==== Sys2Proof/Machine/Operands.lean ====
section
/-! DEFINITION. What instructions compute from their operand fields: effective addresses, sprite pixels,
quirk-selected registers, decimal digits, key numbers. -/

namespace Sys2Proof.Machine

/-- The source of 8XY6 and 8XYE (R30, R158, R161): VY under `cfg.shift = OLD`, VX under `NEW`. -/
def State.shiftSource (s : State) (x y : Reg) : Byte :=
  match s.cfg.shift with
  | .old => s.getV y
  | .new => s.getV x

/-- The register BNNN adds (R134): V0 under `cfg.jump = OLD`, VX with `X = NNN[11:8]` under `NEW`. -/
def State.jumpRegister (s : State) (nnn : Addr12) : Reg :=
  match s.cfg.jump with
  | .old => 0
  | .new => ⟨(nnn.extractLsb' 8 4).toNat, (nnn.extractLsb' 8 4).isLt⟩

/-- `NNN + V[...]`, formed on the 16-bit pc and not masked (R134). -/
def State.jumpTarget (s : State) (nnn : Addr12) : Word :=
  nnn.setWidth 16 + (s.getV (s.jumpRegister nnn)).setWidth 16

/-- A value reduced modulo 0x1000, as every writer leaves `I` (R25). -/
def indexOf (n : Nat) : Word := BitVec.ofNat 16 (n % 0x1000)

/-- `I` after FX55 or FX65 with last register `x` (R170, R184, R186). -/
def State.indexAfter (s : State) (x : Reg) : Word :=
  match s.cfg.indexIncrement with
  | .old => indexOf (s.i.toNat + x.val + 1)
  | .new => s.i

/-- The address of the glyph that the low nibble of a value selects (R178). -/
def State.glyphAddress (s : State) (x : Byte) : Word :=
  BitVec.ofNat 16 ((x &&& 0x0F).toNat * 5 + s.cfg.fontBase)

/-- The decimal digits of a byte: hundreds, tens, units (R181). -/
def bcdDigits (x : Byte) : List Byte :=
  [BitVec.ofNat 8 (x.toNat / 100), BitVec.ofNat 8 (x.toNat / 10 % 10), BitVec.ofNat 8 (x.toNat % 10)]

/-- The key a value names, if it is at most 0xF (R190, R194). -/
def keyIndex (x : Byte) : Option Key := if h : x.toNat < 16 then some ⟨x.toNat, h⟩ else none

/-- The key numbers in rising order. -/
def allKeys : List Key := [0, 1, 2, 3, 4, 5, 6, 7, 8, 9, 10, 11, 12, 13, 14, 15]

/-- `min { k | keys[k] }`, if a key is down (R198). -/
def State.firstKeyDown (s : State) : Option Key := allKeys.find? fun k => s.keys[k]

/-- `V[X] mod 64` (R106) -/
def originX (x : Byte) : Nat := x.toNat % 64

/-- `V[Y] mod 32` (R106; spec/90_conflicts.md C1) -/
def originY (y : Byte) : Nat := y.toNat % 32

/-- `min(N, 32 - oy)`: the rows drawn (R107, R109). -/
def rowsDrawn (n oy : Nat) : Nat := min n (32 - oy)

/-- The pixels that one sprite byte toggles in row `y`, left to right from column `ox + j`: those whose bit
`7 - j` is 1 and whose column is on the canvas (R9, R107, R109). `k` is the number of bits left, `8 - j`. -/
def rowPixels (b : Byte) (ox : Nat) (y : Row) : Nat → List Pixel
  | 0 => []
  | k + 1 =>
    let rest := rowPixels b ox y k
    if h : ox + (7 - k) < 64 then
      if b.getLsbD k then (⟨ox + (7 - k), h⟩, y) :: rest else rest
    else rest

/-- The pixels a sprite toggles, row by row from row `oy`, clipped at the bottom edge (R107, R108). -/
def spritePixels (ox : Nat) : Nat → List Byte → List Pixel
  | _, [] => []
  | oy, b :: rest =>
    if h : oy < 32 then rowPixels b ox ⟨oy, h⟩ 8 ++ spritePixels ox (oy + 1) rest else []

end Sys2Proof.Machine
end

