-- ==== Sys2Proof/Machine/Alu.lean ====
section
/-! DEFINITION. Register and ALU instructions (spec/43_alu.md). 8-bit arithmetic wraps modulo 256 (R167);
operands are read before any write and the flag is written last (R99). -/

namespace Sys2Proof.Machine

/-- 6XNN `LD Vx, nn` (R140) -/
def execLdVxNn (x : Reg) (nn : Byte) (s : State) : Result := .next (s.setV x nn)

/-- 7XNN `ADD Vx, nn` (R142): no flag -/
def execAddVxNn (x : Reg) (nn : Byte) (s : State) : Result := .next (s.setV x (s.getV x + nn))

/-- 8XY0 `LD Vx, Vy` (R144) -/
def execLdVxVy (x y : Reg) (s : State) : Result := .next (s.setV x (s.getV y))

/-- 8XY1 `OR Vx, Vy` (R145, R148) -/
def execOr (x y : Reg) (s : State) : Result := .next (s.setV x (s.getV x ||| s.getV y))

/-- 8XY2 `AND Vx, Vy` (R146, R148) -/
def execAnd (x y : Reg) (s : State) : Result := .next (s.setV x (s.getV x &&& s.getV y))

/-- 8XY3 `XOR Vx, Vy` (R147, R148) -/
def execXor (x y : Reg) (s : State) : Result := .next (s.setV x (s.getV x ^^^ s.getV y))

/-- 8XY4 `ADD Vx, Vy` (R150) -/
def execAddVxVy (x y : Reg) (s : State) : Result :=
  .next (s.setResultThenFlag x (s.getV x + s.getV y) (carryFlag (s.getV x) (s.getV y)))

/-- 8XY5 `SUB Vx, Vy` (R152) -/
def execSub (x y : Reg) (s : State) : Result :=
  .next (s.setResultThenFlag x (s.getV x - s.getV y) (noBorrowFlag (s.getV x) (s.getV y)))

/-- 8XY7 `SUBN Vx, Vy` (R155): the operands exchanged against 8XY5 -/
def execSubn (x y : Reg) (s : State) : Result :=
  .next (s.setResultThenFlag x (s.getV y - s.getV x) (noBorrowFlag (s.getV y) (s.getV x)))

/-- 8XY6 `SHR Vx, Vy` (R158) -/
def execShr (x y : Reg) (s : State) : Result :=
  .next (s.setResultThenFlag x (s.shiftSource x y >>> 1) (shiftFlag (s.getV x)))

/-- 8XYE `SHL Vx, Vy` (R161) -/
def execShl (x y : Reg) (s : State) : Result :=
  .next (s.setResultThenFlag x (s.shiftSource x y <<< 1) (shiftFlag (s.getV x)))

/-- CXNN with the drawn byte `r` (R163): `V[X] <- r & NN`, and the draw is used up. -/
def State.randomAnd (s : State) (r : Byte) (x : Reg) (nn : Byte) : State :=
  (s.setV x (r &&& nn)).setDraws (s.draws + 1)

/-- CXNN `RND Vx, nn` (R163, R165): the byte is the environment's -/
def execRnd (x : Reg) (nn : Byte) (s : State) : Result :=
  .next (s.randomAnd (Config.randomByte s.draws) x nn)

end Sys2Proof.Machine
end

