-- ==== Sys2Proof/Machine/ControlFlow.lean ====
section
/-! DEFINITION. Control transfer (spec/42_control_flow.md). Every meaning is given in the state after the
fetch advance: `pc` is the instruction's address + 2 (spec/40_cycle.md R96). -/

namespace Sys2Proof.Machine

/-- 00EE `RET` (R120, R121) -/
def execRet (s : State) : Result :=
  match s.stack with
  | [] => raise s .ret .stackUnderflow none none
  | top :: rest => .next ((s.setPc top).setStack rest)

/-- 1NNN `JP nnn` (R122) -/
def execJp (nnn : Addr12) (s : State) : Result := .next (s.setPc (nnn.setWidth 16))

/-- Whether a push finds the stack full (R29, R124, R126). -/
def State.stackFull (s : State) : Bool :=
  match s.cfg.stackLimit with
  | none => false
  | some n => decide (s.stack.length = n)

/-- 2NNN `CALL nnn` (R124, R126) -/
def execCall (nnn : Addr12) (s : State) : Result :=
  if s.stackFull then raise s (.call nnn) .stackOverflow none none
  else .next ((s.setStack (s.pc :: s.stack)).setPc (nnn.setWidth 16))

/-- 3XNN `SE Vx, nn` (R128) -/
def execSeVxNn (x : Reg) (nn : Byte) (s : State) : Result := .next (s.skipIf (s.getV x == nn))

/-- 4XNN `SNE Vx, nn` (R129) -/
def execSneVxNn (x : Reg) (nn : Byte) (s : State) : Result := .next (s.skipIf (s.getV x != nn))

/-- 5XY0 `SE Vx, Vy` (R130) -/
def execSeVxVy (x y : Reg) (s : State) : Result := .next (s.skipIf (s.getV x == s.getV y))

/-- 9XY0 `SNE Vx, Vy` (R131) -/
def execSneVxVy (x y : Reg) (s : State) : Result := .next (s.skipIf (s.getV x != s.getV y))

/-- BNNN `JP V0, nnn` (R134) -/
def execJpOff (nnn : Addr12) (s : State) : Result := .next (s.setPc (s.jumpTarget nnn))

end Sys2Proof.Machine
end

