-- ==== Sys2Proof/Machine/Display.lean ====
section
/-! DEFINITION. The display instructions (spec/41_display.md). Every meaning is given in the state after
the fetch advance: `pc` is the instruction's address + 2 (spec/40_cycle.md R96). -/

namespace Sys2Proof.Machine

/-- 00E0 `CLS` (R105) -/
def execCls (s : State) : Result := .next ((s.setScreen blankScreen).emit .clear)

/-- DXYN `DRW Vx, Vy, n` (R106 to R113) -/
def execDrw (x y : Reg) (n : Nat) (s : State) : Result :=
  let ox := originX (s.getV x)
  let oy := originY (s.getV y)
  match s.mem.load s.i.toNat (rowsDrawn n oy) with
  | .error bad => raise s (.drw x y n) .outOfBounds (some bad) none
  | .ok bytes =>
    let pixels := spritePixels ox oy bytes
    let (drawn, collided) := s.drawPixels false pixels
    .next ((drawn.setVF (flagByte collided)).emit (.changed pixels))

end Sys2Proof.Machine
end

