-- ==== Sys2Proof/Machine/IndexMemory.lean ====
section
/-! DEFINITION. Index register and memory instructions (spec/44_index_memory.md). Every address is checked
before any write (R170). -/

namespace Sys2Proof.Machine

/-- ANNN `LD I, nnn` (R172) -/
def execLdINnn (nnn : Addr12) (s : State) : Result := .next (s.setI (nnn.setWidth 16))

/-- FX1E `ADD I, Vx` (R175, R176) -/
def execAddIVx (x : Reg) (s : State) : Result :=
  let added := s.setI (indexOf (s.i.toNat + (s.getV x).toNat))
  match s.cfg.indexOverflow with
  | .new => .next (if indexOverflows s.i (s.getV x) then added.setVF 1 else added)
  | .old => .next added

/-- FX29 `LD F, Vx` (R178) -/
def execLdFVx (x : Reg) (s : State) : Result := .next (s.setI (s.glyphAddress (s.getV x)))

/-- FX33 `LD B, Vx` (R181) -/
def execLdBVx (x : Reg) (s : State) : Result :=
  match s.mem.store s.i.toNat (bcdDigits (s.getV x)) with
  | .error bad => raise s (.ldBVx x) .outOfBounds (some bad) none
  | .ok m => .next (s.setMem m)

/-- FX55 `LD [I], Vx` (R184) -/
def execLdMiVx (x : Reg) (s : State) : Result :=
  match s.mem.store s.i.toNat (s.firstV (x.val + 1)) with
  | .error bad => raise s (.ldMiVx x) .outOfBounds (some bad) none
  | .ok m => .next ((s.setMem m).setI (s.indexAfter x))

/-- FX65 `LD Vx, [I]` (R186) -/
def execLdVxMi (x : Reg) (s : State) : Result :=
  match s.mem.load s.i.toNat (x.val + 1) with
  | .error bad => raise s (.ldVxMi x) .outOfBounds (some bad) none
  | .ok bytes => .next ((s.loadV bytes).setI (s.indexAfter x))

end Sys2Proof.Machine
end

