-- ==== Sys2Proof/Machine/KeypadTimers.lean ====
section
/-! DEFINITION. Keypad and timer instructions (spec/45_keypad_timers.md). -/

namespace Sys2Proof.Machine

/-- EX9E `SKP Vx` (R190, R194) -/
def execSkp (x : Reg) (s : State) : Result :=
  match keyIndex (s.getV x) with
  | none => raise s (.skp x) .keyIndexOutOfRange none (some (s.getV x))
  | some k => .next (s.skipIf s.keys[k])

/-- EXA1 `SKNP Vx` (R192, R194) -/
def execSknp (x : Reg) (s : State) : Result :=
  match keyIndex (s.getV x) with
  | none => raise s (.sknp x) .keyIndexOutOfRange none (some (s.getV x))
  | some k => .next (s.skipIf (!s.keys[k]))

/-- FX07 `LD Vx, DT` (R196) -/
def execLdVxDt (x : Reg) (s : State) : Result := .next (s.setV x s.dt)

/-- FX0A `LD Vx, K` (R198): with no key down `pc` goes back to this instruction, to run it again -/
def execLdVxK (x : Reg) (s : State) : Result :=
  match s.firstKeyDown with
  | none => .next (s.setPc (s.pc - 2))
  | some k => .next (s.setV x (BitVec.ofNat 8 k.val))

/-- FX15 `LD DT, Vx` (R201) -/
def execLdDtVx (x : Reg) (s : State) : Result := .next (s.setDt (s.getV x))

/-- FX18 `LD ST, Vx` (R203) -/
def execLdStVx (x : Reg) (s : State) : Result := .next (s.setSt (s.getV x))

end Sys2Proof.Machine
end

