-- ==== Sys2Proof/Machine/Cycle.lean ====
section
/-! DEFINITION. One core step (spec/40_cycle.md R90 to R95) and one turn of any agent (R100). -/

namespace Sys2Proof.Machine

/-- A fault raised before an instruction is known: by the fetch, or by decoding (R90, R92, R95). Nothing
has been written, and the address of the instruction is `pc`. -/
def raiseAtFetch (s : State) (cause : FaultCause) (word : Option Word) (addr : Option Nat) : Result :=
  .next (s.takeFault { cause := cause, pc := s.pc, instruction := word, addr := addr, key := none })

/-- Fetch, advance, decode, execute (R90), in this order, so the checks come in the order of R215. -/
def runInstruction (s : State) : Result :=
  match s.mem.loadWord s.pc.toNat with
  | .error bad => raiseAtFetch s .outOfBounds none (some bad)
  | .ok w =>
    match decode w with
    | .error _ => raiseAtFetch s .unimplementedInstruction (some w) none
    | .ok i => exec i (s.setPc (s.pc + 2))

/-- The core's turn: it is enabled only while running and before a quit request (R90, R98, R222, R37). -/
def coreStep (s : State) : Result :=
  if s.quit then .fault .quitRequested
  else
    match s.halted with
    | .faulted record => .fault (.coreFaulted record)
    | .running => runInstruction s

/-- One turn of one agent (R18, R100). -/
def takeTurn (t : Turn) (s : State) : Result :=
  match t with
  | .core => coreStep s
  | .tick => .next s.tick
  | .refreshKeys keys => .next (s.refreshKeys keys)
  | .requestQuit => .next s.requestQuit
  | .takeEvent => .next s.takeEvent

/-- The turn at the head of the schedule; an empty schedule is the core's turn (notes/assumptions/5.md). -/
def State.nextTurn (s : State) : Turn := s.schedule.headD .core

/-- The state in which the next turn is taken: the schedule has moved on. -/
def State.turnUsed (s : State) : State := { s with schedule := s.schedule.tail }

end Sys2Proof.Machine
end

