-- ==== Sys2Proof/Machine/Step.lean ====
section
/-! DEFINITION. One step of the machine: one turn of one agent (spec/40_cycle.md R100). -/

namespace Sys2Proof.Machine

/-- The next turn of the schedule, taken. A core turn is the core step of R90. -/
def step (s : State) : Host.Outcome State Fault Refusal := takeTurn s.nextTurn s.turnUsed

/-- The state with an instruction of the opcode table stored where the next step fetches it
(notes/assumptions/9.md). -/
def State.withFetchWord (s : State) (nbits w : Nat) : State :=
  s.placeWord (BitVec.ofNat 16 (w % 2 ^ nbits))

end Sys2Proof.Machine
end

