-- ==== Sys2Proof/Safety.lean ====
section
/-! DEFINITION. The terms in which claims speak of a run: whether the core can step, the invariant of every
reachable state (spec/10_state.md R42), the park (spec/70_reset_and_hazards.md R250). -/

namespace Sys2Proof.Machine

/-- It is the core's turn and the core is enabled (R90, R98). -/
structure State.CoreReady (s : State) : Prop where
  turn : s.nextTurn = .core
  noQuit : s.quit = false
  running : s.halted = .running

/-- The invariant of every reachable state: the bounds of R42, the canonical form of memory, a stack within
its limit (R29), legal parameters (R8), and, when halted, the record's `pc` the core's own (R214). -/
structure State.Inv (s : State) : Prop where
  mem_wf : s.mem.wf = true
  index_valid : s.i.toNat ≤ 0xFFF
  pc_bounded : s.pc.toNat ≤ 0x10FE
  stack_bounded : ∀ a ∈ s.stack, a.toNat ≤ 0x1000
  stack_depth : ∀ n, s.cfg.stackLimit = some n → s.stack.length ≤ n
  params_wf : s.cfg.wf = true
  record_pc : ∀ r, s.halted = .faulted r → r.pc = s.pc

/-- A park (R250): running, with a jump to its own address at `pc`. -/
structure State.Park (s : State) : Prop where
  running : s.halted = .running
  pc_bounded : s.pc.toNat ≤ 0xFFF
  self_jump : s.mem.loadWord s.pc.toNat = .ok (0x1000 ||| s.pc)

/-- The order in which a sprite's pixels are toggled: row by row, left to right (spec/41_display.md R108). -/
def drawnBefore (p q : Pixel) : Prop := p.2 < q.2 ∨ (p.2 = q.2 ∧ p.1 < q.1)

/-! ### Frames: what a step may write, and that it writes nothing else -/

/-- What may change; everything not named stays. -/
structure Written where
  v : Reg → Bool := fun _ => false
  i : Bool := false
  pc : Bool := false
  dt : Bool := false
  st : Bool := false
  stack : Bool := false
  mem : Nat → Bool := fun _ => false
  screen : Bool := false
  events : Bool := false
  draws : Bool := false

/-- From `s` to `t` nothing changed but what `w` names: no other register, no other byte of memory, and in
no case `keys`, `halted`, the parameters, the quit request or the schedule. -/
structure Frame (w : Written) (s t : State) : Prop where
  v : ∀ r, w.v r = false → t.getV r = s.getV r
  i : w.i = false → t.i = s.i
  pc : w.pc = false → t.pc = s.pc
  dt : w.dt = false → t.dt = s.dt
  st : w.st = false → t.st = s.st
  stack : w.stack = false → t.stack = s.stack
  mem : ∀ a, w.mem a = false → t.mem.byteAt a = s.mem.byteAt a
  screen : w.screen = false → t.screen = s.screen
  events : w.events = false → t.events = s.events
  draws : w.draws = false → t.draws = s.draws
  keys : t.keys = s.keys
  halted : t.halted = s.halted
  cfg : t.cfg = s.cfg
  quit : t.quit = s.quit
  schedule : t.schedule = s.schedule

/-- The instruction raises the fault and writes nothing (R213, R214): the next state is the state before the step, `pc` back at
the address `a = pc - 2` of the instruction (`s` is the state after the advance), halted with a record of the cause, that
address, the instruction's word, and the address or key at fault. -/
def Raises (i : Instr) (s : State) (cause : FaultCause) (addr : Option Nat) (key : Option Byte) : Prop :=
  exec i s = .next { s with
    pc := s.pc - 2
    halted := .faulted
      { cause := cause, pc := s.pc - 2, instruction := some (encode i), addr := addr, key := key } }

/-- The instruction's word matches the mask and pattern of its row of the opcode map, and decodes to it. -/
def EncodedAs (i : Instr) (mask pattern : Word) : Prop :=
  encode i &&& mask = pattern ∧ decode (encode i) = .ok i

end Sys2Proof.Machine
end

