-- ==== Sys2Proof/Certificates/Slice0/Obligations.lean ====
section
/-! DEFINITION. The statements for the provers. A statement about `exec i s` is about the state after the fetch
advance: `s.pc` is the instruction's address + 2 (spec/40_cycle.md R93, R96); `StepRunsDecodedInstruction` joins it to
`step`. -/

open Sys2Proof Sys2Proof.Machine

/-! ### Encoding -/

/-- Decoding an encoded well-formed instruction gives it back, with every operand at every value (R72, R73, R83). -/
def Obligations.DecodeInvertsEncode : Prop :=
  ∀ i : Instr, i.wellFormed = true → decode (encode i) = .ok i

/-- A word that decodes is the encoding of what it decodes to, and that instruction is well formed: no bit of a word is
dropped (R79). -/
def Obligations.EncodeInvertsDecode : Prop :=
  ∀ (w : Word) (i : Instr), decode w = .ok i → encode i = w ∧ i.wellFormed = true

/-- The decision tree (R74 to R77) against the masks and patterns of R86: a word decodes iff it matches a row, then to that
row's instruction and to no other row; a word that matches none is unimplemented (R78, R79, R95; 9XYN is decision D12). -/
def Obligations.DecodeFollowsOpcodeMap : Prop :=
  ∀ w : Word,
    (∀ i, decode w = .ok i →
      i.row ∈ opcodeRows ∧ i.row.matchesWord w = true ∧ ∀ r ∈ opcodeRows, r.matchesWord w = true → r = i.row) ∧
    ((∀ r ∈ opcodeRows, r.matchesWord w = false) → decode w = .error (.unimplemented w)) ∧
    ((∃ r ∈ opcodeRows, r.matchesWord w = true) → ∃ i, decode w = .ok i)

/-- Words written out from the patterns of R86, one of each format, and words R75 to R77 call unimplemented. -/
def Obligations.SampleWordsDecodeAsListed : Prop :=
  decode 0x00E0 = .ok .cls ∧ decode 0x2310 = .ok (.call 0x310) ∧ decode 0x3A42 = .ok (.seVxNn 10 0x42) ∧
  decode 0x8127 = .ok (.subn 1 2) ∧ decode 0xD123 = .ok (.drw 1 2 3) ∧ decode 0xFE65 = .ok (.ldVxMi 14) ∧
  decode 0x0123 = .error (.unimplemented 0x0123) ∧ decode 0x5121 = .error (.unimplemented 0x5121) ∧
  decode 0x8128 = .error (.unimplemented 0x8128) ∧ decode 0xE000 = .error (.unimplemented 0xE000)

/-! ### The core step -/

/-- R91, R93: the core fetches the big-endian word at `pc`, advances `pc` by 2 and runs the meaning of the decoded
instruction; around it the step uses up one turn of the schedule (log entry 5). -/
def Obligations.StepRunsDecodedInstruction : Prop :=
  ∀ (s : State) (i : Instr), s.CoreReady → s.pc.toNat + 1 < 0x1000 →
    decode (wordOfBytes (s.mem.byteAt s.pc.toNat) (s.mem.byteAt (s.pc.toNat + 1))) = .ok i →
    (wordOfBytes (s.mem.byteAt s.pc.toNat) (s.mem.byteAt (s.pc.toNat + 1))).toNat =
      (s.mem.byteAt s.pc.toNat).toNat * 256 + (s.mem.byteAt (s.pc.toNat + 1)).toNat ∧
    step s = exec i (s.turnUsed.setPc (s.pc + 2))

/-- R92 (decisions D8, D9) with the entry of R214 (D15): a fetch that reaches address 0x1000 or beyond faults, with no
instruction in the record and the lowest address outside, and nothing else changes but one turn used up (log entry 5). -/
def Obligations.FetchBeyondMemoryFaults : Prop :=
  ∀ s : State, s.CoreReady → 0x1000 ≤ s.pc.toNat + 1 →
    step s = .next { s.turnUsed with
      halted := .faulted ⟨.outOfBounds, s.pc, none, some (max s.pc.toNat 0x1000), none⟩ }

/-- R78, R95 with the entry of R213, R214 (decisions D15, D16): a fetched word that matches no row of R86 faults, and
nothing else changes, `pc` included, but one turn used up (log entry 5). -/
def Obligations.UnmatchedWordFaults : Prop :=
  ∀ s : State, s.CoreReady → s.pc.toNat + 1 < 0x1000 →
    (∀ r ∈ opcodeRows,
      r.matchesWord (wordOfBytes (s.mem.byteAt s.pc.toNat) (s.mem.byteAt (s.pc.toNat + 1))) = false) →
    step s = .next { s.turnUsed with
      halted := .faulted ⟨.unimplementedInstruction, s.pc,
        some (wordOfBytes (s.mem.byteAt s.pc.toNat) (s.mem.byteAt (s.pc.toNat + 1))), none, none⟩ }

/-- R214, R213 (decisions D15, D16), over every instruction and every fault: no write of the faulting step takes effect,
and the record holds the address of the instruction and the word, if one was fetched. The turn used up is log entry 5. -/
def Obligations.FaultsArePrecise : Prop :=
  ∀ (s t : State) (r : FaultRecord), s.CoreReady → step s = .next t → t.halted = .faulted r →
    t = { s.turnUsed with halted := .faulted r } ∧ r.pc = s.pc ∧
    r.instruction = (if s.pc.toNat + 1 < 0x1000 then
      some (wordOfBytes (s.mem.byteAt s.pc.toNat) (s.mem.byteAt (s.pc.toNat + 1))) else none)

/-- R37, R214, R216 (decision D15): a core halted by a fault takes no step, and whatever the other agents do, it stays
halted with the same record and the same registers, stack, memory and screen. The stop `coreFaulted` is log entry 6. -/
def Obligations.FaultedCoreStaysFaulted : Prop :=
  ∀ (s : State) (r : FaultRecord), s.halted = .faulted r →
    (s.nextTurn = .core → s.quit = false → step s = .fault (.coreFaulted r)) ∧
    (s.nextTurn = .core → ∀ t, step s ≠ .next t) ∧
    (∀ t, step s = .next t → t.halted = .faulted r ∧ t.v = s.v ∧ t.i = s.i ∧ t.pc = s.pc ∧ t.stack = s.stack ∧
      t.mem = s.mem ∧ t.screen = s.screen)

/-- R222: a quit request changes no core state, and after it no core step is taken. The field `quit` and the stop
`quitRequested` are the model's choice (log entry 6), the turn used up log entry 5. -/
def Obligations.QuitEndsCoreSteps : Prop :=
  ∀ s : State,
    (s.nextTurn = .requestQuit → step s = .next { s.turnUsed with quit := true }) ∧
    (s.quit = true → s.nextTurn = .core → step s = .fault .quitRequested) ∧
    (s.quit = true → ∀ t, step s = .next t → t.quit = true ∧ t.v = s.v ∧ t.pc = s.pc ∧ t.mem = s.mem)

/-- R205: a tick takes one from each timer that is above 0 and touches no other state of the machine, whether or not the core
is halted. It uses up one turn of the schedule, which is the model's choice (log entry 5). -/
def Obligations.TickDecrementsTimers : Prop :=
  ∀ s : State, s.nextTurn = .tick →
    ∃ t, step s = .next t ∧ t.dt.toNat = s.dt.toNat - 1 ∧ t.st.toNat = s.st.toNat - 1 ∧
      t = { s.turnUsed with dt := t.dt, st := t.st }

/-- R205, R207: `n` ticks in a row take `n` from each timer, down to 0 and no further. The schedule that
holds the ticks is the model's choice (log entry 5). -/
def Obligations.TicksCountTimersDown : Prop :=
  ∀ (n : Nat) (s : State) (rest : List Turn), s.schedule = List.replicate n .tick ++ rest →
    ∃ t, core.run n s = .next t ∧ t.dt.toNat = s.dt.toNat - n ∧ t.st.toNat = s.st.toNat - n ∧ t.schedule = rest

/-- R26, R27, R207: a timer rises only by a core step that runs FX15 or FX18. -/
def Obligations.TimersRiseOnlyByTheirLoads : Prop :=
  ∀ s t : State, step s = .next t →
    let w := wordOfBytes (s.mem.byteAt s.pc.toNat) (s.mem.byteAt (s.pc.toNat + 1))
    (s.dt.toNat < t.dt.toNat → s.nextTurn = .core ∧ w &&& 0xF0FF = 0xF015) ∧
    (s.st.toNat < t.st.toNat → s.nextTurn = .core ∧ w &&& 0xF0FF = 0xF018)

/-- R35, R226 (decision D19): the host's refresh sets the keypad snapshot to the keys it gives and changes nothing else, and
no other step changes the snapshot. R31: no step changes the configuration. R100: a step uses up one turn (the model's
choice, log entry 5). -/
def Obligations.OnlyHostRefreshesKeys : Prop :=
  ∀ s : State,
    (∀ k, s.nextTurn = .refreshKeys k → step s = .next { s.turnUsed with keys := k }) ∧
    ∀ t, step s = .next t →
      t.cfg = s.cfg ∧ t.schedule = s.schedule.tail ∧
      (t.keys ≠ s.keys → ∃ k, s.nextTurn = .refreshKeys k ∧ t = { s.turnUsed with keys := k })

/-! ### Reset and boot -/

/-- R43, R23, R241: the state after reset. Values other than `pc` are decision D6; the parameters are the model's choice
(log entries 1, 2), `events`, `quit`, `draws` and `schedule` the model's fields (log entries 4 to 7). -/
def Obligations.ResetValuesAreAsListed : Prop :=
  State.reset.pc = 0x200 ∧ (∀ x, State.reset.getV x = 0) ∧ State.reset.i = 0 ∧ State.reset.dt = 0 ∧
  State.reset.st = 0 ∧ State.reset.stack = [] ∧ (∀ p, State.reset.pixel p = false) ∧
  (∀ k : Key, State.reset.keys[k] = false) ∧ State.reset.halted = .running ∧
  (∀ k : Fin 80, State.reset.mem.byteAt (0x050 + k) = State.reset.cfg.fontData[k]) ∧
  (∀ a, a < 0x050 ∨ 0x0A0 ≤ a → State.reset.mem.byteAt a = 0)

/-- R241: at startup the font is copied to `FONT_BASE`, for every legal parameter and every image that loads. -/
def Obligations.BootLoadsFont : Prop :=
  ∀ (p : Params) (rom : List Byte) (s : State), p.wf = true → State.boot p (some rom) = .ok s →
    ∀ k : Fin 80, s.mem.byteAt (p.fontBase + k) = p.fontData[k]

/-- R240, R242 (decisions D6, D30): an image of at most 3584 bytes is copied verbatim to 0x200, every byte outside it and
the font is 0, and the rest is as after reset; a longer image or an unreadable one is a load error (R212). -/
def Obligations.BootLoadsRom : Prop :=
  ∀ (p : Params) (rom : List Byte), p.wf = true →
    (rom.length ≤ 3584 → ∃ s, State.boot p (some rom) = .ok s ∧ s = { State.reset with cfg := p, mem := s.mem } ∧
      (∀ k (h : k < rom.length), s.mem.byteAt (0x200 + k) = rom[k]) ∧
      (∀ a, a < p.fontBase ∨ p.fontBase + 80 ≤ a → a < 0x200 ∨ 0x200 + rom.length ≤ a → s.mem.byteAt a = 0)) ∧
    (3584 < rom.length → State.boot p (some rom) = .error .romTooLarge) ∧
    State.boot p none = .error .romIoError

/-- R242 (decision D30): with an empty image the first step faults on the word 0x0000 at 0x200. -/
def Obligations.EmptyRomFaultsAtFirstStep : Prop :=
  ∃ s t, State.boot defaultParams (some []) = .ok s ∧ step s = .next t ∧
    t.halted = .faulted ⟨.unimplementedInstruction, 0x200, some 0x0000, none, none⟩

/-! ### Invariants -/

/-- The state after reset meets the invariant. -/
def Obligations.ResetMeetsInvariant : Prop := State.reset.Inv

/-- The state every boot leaves meets the invariant (R240, R42). -/
def Obligations.BootMeetsInvariant : Prop :=
  ∀ (p : Params) (rom : List Byte) (s : State), p.wf = true → State.boot p (some rom) = .ok s → s.Inv

/-- R42: every step of every agent keeps the invariant: memory canonical, `I ≤ 0xFFF`, `pc ≤ 0x10FE`, return addresses at
most 0x1000, the stack within its limit, and a fault record naming the core's own `pc`. -/
def Obligations.StepKeepsInvariant : Prop :=
  ∀ s t : State, s.Inv → step s = .next t → t.Inv

/-- R42, "in every reachable state": every state of every run from every boot, under every interleaving of the agents'
turns, meets the invariant. -/
def Obligations.ReachableStatesMeetInvariant : Prop :=
  ∀ (p : Params) (rom : List Byte) (s t : State) (turns : List Turn) (n : Nat), p.wf = true →
    State.boot p (some rom) = .ok s → core.run n { s with schedule := turns } = .next t → t.Inv

/-- Memories in the canonical form that read the same at every address are the same data. The canonical form is the model's
choice (log entry 3), the form in which it holds the bytes of R36. -/
def Obligations.CanonicalMemoriesWithEqualBytesAreEqual : Prop :=
  ∀ m m' : Memory, m.wf = true → m'.wf = true → (∀ a, a < 0x1000 → m.byteAt a = m'.byteAt a) → m = m'

/-! ### Display -/

/-- R105: 00E0 turns every pixel off and emits `Clear`, and changes nothing else. That it emits `Clear` in every case is
decision D28 (R108, log entry 14), the list that the event joins the model's choice (log entry 7). -/
def Obligations.ClsTurnsEveryPixelOff : Prop :=
  EncodedAs .cls 0xFFFF 0x00E0 ∧
  ∀ s : State, ∃ t, exec .cls s = .next t ∧ (∀ p, t.pixel p = false) ∧ t.events = s.events ++ [.clear] ∧
    Frame { screen := true, events := true } s t

/-- The sprite of DXYN has a 1 bit for this pixel: it is row `r` below the origin and column `j` right of it, for a row of
the sprite and a column of the byte; a place off the canvas is no pixel (R106, R107, R109). -/
def Sys2Proof.Machine.spriteCovers (s : State) (x y : Reg) (n : Nat) (p : Pixel) : Prop :=
  ∃ r < n, ∃ j < 8, p.2.val = (s.getV y).toNat % 32 + r ∧ p.1.val = (s.getV x).toNat % 64 + j ∧
    (s.mem.byteAt (s.i.toNat + r)).getLsbD (7 - j) = true

/-- R106, R109: DXYN toggles exactly the pixels the sprite covers, sets VF to 1 iff one of them was on and to 0 otherwise,
emits the list of toggled pixels in order, and changes nothing else; if a row to be drawn lies outside memory it raises
`OutOfBounds` and writes nothing. The origin's row modulo 32 is conflict C1, a sprite of no rows decision D14, the order of
the event's list and an empty one decision D28 (log entry 14), the event list log entry 7; the bound is decision D9 (log entry
10), the fault's entry and the record's `pc` decisions D15, D16 (log entry 8). -/
def Obligations.DrwTogglesSpritePixels : Prop :=
  ∀ (s : State) (x y : Reg) (n : Nat), n ≤ 15 →
    let rows := min n (32 - (s.getV y).toNat % 32)
    EncodedAs (.drw x y n) 0xF000 0xD000 ∧
    (rows = 0 ∨ s.i.toNat + rows ≤ 0x1000 →
      ∃ t ps, exec (.drw x y n) s = .next t ∧ (∀ p, p ∈ ps ↔ spriteCovers s x y n p) ∧ ps.Pairwise drawnBefore ∧
        (∀ p, t.pixel p = if p ∈ ps then !s.pixel p else s.pixel p) ∧
        t.getV 15 = (if ps.any s.pixel then 1 else 0) ∧ t.events = s.events ++ [.changed ps] ∧
        Frame { v := fun r => r == 15, screen := true, events := true } s t) ∧
    (0 < rows → 0x1000 < s.i.toNat + rows →
      Raises (.drw x y n) s .outOfBounds (some (max s.i.toNat 0x1000)) none)

/-- R114: a sprite drawn twice from the same place restores every pixel, and the second VF is 1 iff the first drawing turned
a pixel on. Nothing but VX, VY, `I`, memory and the screen need be the same the second time. -/
def Obligations.DrawingTwiceRestoresScreen : Prop :=
  ∀ (s s' : State) (x y : Reg) (n : Nat),
    (n = 0 ∨ s.i.toNat + min n (32 - (s.getV y).toNat % 32) ≤ 0x1000) →
    ∃ t, exec (.drw x y n) s = .next t ∧
      (s'.getV x = s.getV x → s'.getV y = s.getV y → s'.i = s.i → s'.mem = s.mem → s'.screen = t.screen →
        ∃ u, exec (.drw x y n) s' = .next u ∧ (∀ p, u.pixel p = s.pixel p) ∧
          (u.getV 15 = 1 ↔ ∃ p, s.pixel p = false ∧ t.pixel p = true) ∧ (u.getV 15 = 0 ∨ u.getV 15 = 1))

/-- R34, R102: over a core step the screen changes and an event is emitted only by 00E0 and DXYN, at most one event, and
none when the step faults (D28 of R108, log entry 14; the list of events: log entry 7). -/
def Obligations.OnlyClsAndDrwReachDisplay : Prop :=
  ∀ s t : State, s.nextTurn = .core → step s = .next t →
    let w := wordOfBytes (s.mem.byteAt s.pc.toNat) (s.mem.byteAt (s.pc.toNat + 1))
    (t.screen = s.screen ∧ t.events = s.events) ∨
    ((w = 0x00E0 ∨ w &&& 0xF000 = 0xD000) ∧ t.halted = .running ∧ ∃ e, t.events = s.events ++ [e])

/-! ### Control transfer -/

/-- R122: 1NNN sets `pc` to NNN and changes nothing else. -/
def Obligations.JpSetsPc : Prop :=
  ∀ (s : State) (nnn : Addr12), EncodedAs (.jp nnn) 0xF000 0x1000 ∧
    ∃ t, exec (.jp nnn) s = .next t ∧ t.pc.toNat = nnn.toNat ∧ Frame { pc := true } s t

/-- R124: 2NNN pushes the return address and sets `pc` to NNN, or raises `StackOverflow` when a bounded stack is full and
writes nothing (R126, decision D5, log entry 16; entry and record's `pc`: decisions D15, D16, log entry 8). -/
def Obligations.CallPushesReturnAddress : Prop :=
  ∀ (s : State) (nnn : Addr12), EncodedAs (.call nnn) 0xF000 0x2000 ∧
    (s.cfg.stackLimit ≠ some s.stack.length →
      ∃ t, exec (.call nnn) s = .next t ∧ t.stack = s.pc :: s.stack ∧ t.pc.toNat = nnn.toNat ∧
        Frame { pc := true, stack := true } s t) ∧
    (s.cfg.stackLimit = some s.stack.length → Raises (.call nnn) s .stackOverflow none none)

/-- R120, R121: 00EE pops the return address into `pc`, unmasked, or raises `StackUnderflow`, which writes nothing and leaves
`pc` at the instruction and the stack empty (the entry and the record's `pc`: decisions D15, D16, log entry 8). -/
def Obligations.RetPopsReturnAddress : Prop :=
  EncodedAs .ret 0xFFFF 0x00EE ∧
  ∀ s : State,
    (∀ top rest, s.stack = top :: rest → ∃ t, exec .ret s = .next t ∧ t.pc = top ∧ t.stack = rest ∧
      Frame { pc := true, stack := true } s t) ∧
    (s.stack = [] → Raises .ret s .stackUnderflow none none ∧
      ∀ t, exec .ret s = .next t → t.pc = s.pc - 2 ∧ t.stack = [])

/-- Calls at the addresses of the list, in order, with no other stack operation between them. -/
def Sys2Proof.Machine.Calls : List Word → State → State → Prop
  | [], s, t => t.stack = s.stack
  | a :: rest, s, t => ∃ s1 s2 nnn, s1.stack = s.stack ∧ s1.pc = a + 2 ∧ s1.cfg.stackLimit ≠ some s1.stack.length ∧
      exec (.call nnn) s1 = .next s2 ∧ Calls rest s2 t

/-- Returns that set `pc` to the values of the list, in order, with no other stack operation between them. -/
def Sys2Proof.Machine.Returns : List Word → State → State → Prop
  | [], s, t => t.stack = s.stack
  | p :: rest, s, t => ∃ s1 s2, s1.stack = s.stack ∧ s1.stack ≠ [] ∧ exec .ret s1 = .next s2 ∧ s2.pc = p ∧
      Returns rest s2 t

/-- R136: after calls at `a1, ..., an`, `n` returns can be made, they go to `an + 2, ..., a1 + 2`, and leave the stack as it
was before the first call. -/
def Obligations.ReturnsUnwindCalls : Prop :=
  ∀ (addrs : List Word) (s t : State), Calls addrs s t →
    (∃ u, Returns (addrs.map (· + 2)).reverse t u) ∧
    ∀ pcs u, pcs.length = addrs.length → Returns pcs t u →
      pcs = (addrs.map (· + 2)).reverse ∧ u.stack = s.stack

/-- R128, R129: 3XNN skips iff VX = NN, 4XNN iff VX ≠ NN; they change nothing but `pc`. -/
def Obligations.SkipsOnImmediate : Prop :=
  ∀ (s : State) (x : Reg) (nn : Byte),
    EncodedAs (.seVxNn x nn) 0xF000 0x3000 ∧ EncodedAs (.sneVxNn x nn) 0xF000 0x4000 ∧
    (∃ t, exec (.seVxNn x nn) s = .next t ∧ t.pc = (if s.getV x = nn then s.pc + 2 else s.pc) ∧
      Frame { pc := true } s t) ∧
    (∃ t, exec (.sneVxNn x nn) s = .next t ∧ t.pc = (if s.getV x = nn then s.pc else s.pc + 2) ∧
      Frame { pc := true } s t)

/-- R130, R131: 5XY0 skips iff VX = VY, 9XY0 iff VX ≠ VY; a word of these families with a low nibble other than 0 is
unimplemented (for 9XYN that is decision D12). -/
def Obligations.SkipsOnRegisters : Prop :=
  (∀ (s : State) (x y : Reg),
    EncodedAs (.seVxVy x y) 0xF00F 0x5000 ∧ EncodedAs (.sneVxVy x y) 0xF00F 0x9000 ∧
    (∃ t, exec (.seVxVy x y) s = .next t ∧ t.pc = (if s.getV x = s.getV y then s.pc + 2 else s.pc) ∧
      Frame { pc := true } s t) ∧
    (∃ t, exec (.sneVxVy x y) s = .next t ∧ t.pc = (if s.getV x = s.getV y then s.pc else s.pc + 2) ∧
      Frame { pc := true } s t)) ∧
  ∀ w : Word, w &&& 0xF000 = 0x5000 ∨ w &&& 0xF000 = 0x9000 → w &&& 0x000F ≠ 0 →
    decode w = .error (.unimplemented w)

/-- R134 (decision D8): BNNN goes to NNN + V0 under OLD and to NNN + V[NNN >> 8] under NEW, not masked. -/
def Obligations.JpOffAddsSelectedRegister : Prop :=
  ∀ (s : State) (nnn : Addr12), EncodedAs (.jpOff nnn) 0xF000 0xB000 ∧
    ∃ t, exec (.jpOff nnn) s = .next t ∧
      (s.cfg.jump = .old → t.pc.toNat = nnn.toNat + (s.getV 0).toNat) ∧
      (s.cfg.jump = .new → t.pc.toNat = nnn.toNat + (s.getV (Fin.ofNat 16 (nnn.toNat / 256))).toNat) ∧
      Frame { pc := true } s t

/-- R250 (decision D25): from a park each core step leaves the state as it is, and no step of any agent leaves the park; with
no turn of another agent the state never changes. The turns are the model's choice (log entry 5). -/
def Obligations.ParkedCoreNeverLeaves : Prop :=
  ∀ s : State, s.Park →
    (s.nextTurn = .core → s.quit = false → step s = .next s.turnUsed) ∧
    (∀ t, step s = .next t → t.Park) ∧
    (s.quit = false → s.schedule = [] → ∀ n, core.run n s = .next s)

/-! ### Registers and ALU -/

/-- R140, R144: 6XNN loads NN, 8XY0 copies VY; no flag, nothing else changes (R96). -/
def Obligations.LoadsWriteTheirRegister : Prop :=
  ∀ (s : State) (x y : Reg) (nn : Byte),
    EncodedAs (.ldVxNn x nn) 0xF000 0x6000 ∧ EncodedAs (.ldVxVy x y) 0xF00F 0x8000 ∧
    (∃ t, exec (.ldVxNn x nn) s = .next t ∧ t.getV x = nn ∧ Frame { v := fun r => r == x } s t) ∧
    (∃ t, exec (.ldVxVy x y) s = .next t ∧ t.getV x = s.getV y ∧ Frame { v := fun r => r == x } s t)

/-- R142: 7XNN adds modulo 256 and writes no flag. -/
def Obligations.AddImmediateWrapsWithoutFlag : Prop :=
  ∀ (s : State) (x : Reg) (nn : Byte), EncodedAs (.addVxNn x nn) 0xF000 0x7000 ∧
    ∃ t, exec (.addVxNn x nn) s = .next t ∧ (t.getV x).toNat = ((s.getV x).toNat + nn.toNat) % 256 ∧
      Frame { v := fun r => r == x } s t

/-- R145, R146, R147: 8XY1, 8XY2, 8XY3 are the bitwise or, and, exclusive or, and write no flag (R148, decision D31, log
entry 15). -/
def Obligations.LogicIsBitwiseWithoutFlag : Prop :=
  ∀ (s : State) (x y : Reg),
    EncodedAs (.or x y) 0xF00F 0x8001 ∧ EncodedAs (.and x y) 0xF00F 0x8002 ∧ EncodedAs (.xor x y) 0xF00F 0x8003 ∧
    (∃ t, exec (.or x y) s = .next t ∧ Frame { v := fun r => r == x } s t ∧
      ∀ k < 8, (t.getV x).getLsbD k = ((s.getV x).getLsbD k || (s.getV y).getLsbD k)) ∧
    (∃ t, exec (.and x y) s = .next t ∧ Frame { v := fun r => r == x } s t ∧
      ∀ k < 8, (t.getV x).getLsbD k = ((s.getV x).getLsbD k && (s.getV y).getLsbD k)) ∧
    (∃ t, exec (.xor x y) s = .next t ∧ Frame { v := fun r => r == x } s t ∧
      ∀ k < 8, (t.getV x).getLsbD k = ((s.getV x).getLsbD k != (s.getV y).getLsbD k))

/-- R150: 8XY4 adds modulo 256 and leaves the carry in VF, also when VX is VF. -/
def Obligations.AddRegistersReportsCarry : Prop :=
  ∀ (s : State) (x y : Reg), EncodedAs (.addVxVy x y) 0xF00F 0x8004 ∧
    ∃ t, exec (.addVxVy x y) s = .next t ∧
      (x ≠ 15 → (t.getV x).toNat = ((s.getV x).toNat + (s.getV y).toNat) % 256) ∧
      (t.getV 15).toNat = (if 255 < (s.getV x).toNat + (s.getV y).toNat then 1 else 0) ∧
      Frame { v := fun r => r == x || r == 15 } s t

/-- R152, R155: 8XY5 and 8XY7 subtract modulo 256, in opposite orders, and leave "no borrow" in VF, also when VX is VF. -/
def Obligations.SubtractionsReportNoBorrow : Prop :=
  ∀ (s : State) (x y : Reg), EncodedAs (.sub x y) 0xF00F 0x8005 ∧ EncodedAs (.subn x y) 0xF00F 0x8007 ∧
    (∃ t, exec (.sub x y) s = .next t ∧
      (x ≠ 15 → (t.getV x).toNat = (256 + (s.getV x).toNat - (s.getV y).toNat) % 256) ∧
      (t.getV 15).toNat = (if (s.getV y).toNat ≤ (s.getV x).toNat then 1 else 0) ∧
      Frame { v := fun r => r == x || r == 15 } s t) ∧
    (∃ t, exec (.subn x y) s = .next t ∧
      (x ≠ 15 → (t.getV x).toNat = (256 + (s.getV y).toNat - (s.getV x).toNat) % 256) ∧
      (t.getV 15).toNat = (if (s.getV x).toNat ≤ (s.getV y).toNat then 1 else 0) ∧
      Frame { v := fun r => r == x || r == 15 } s t)

/-- R158, R161: 8XY6 halves and 8XYE doubles (modulo 256) VY under `cfg.shift = OLD` and VX under NEW, and leave bit 0 of the
old VX in VF, in both directions and both modes (conflict C3), also when VX is VF (conflict C4, decision D11): log entry 15. -/
def Obligations.ShiftsReportLowBitOfVx : Prop :=
  ∀ (s : State) (x y : Reg), EncodedAs (.shr x y) 0xF00F 0x8006 ∧ EncodedAs (.shl x y) 0xF00F 0x800E ∧
    let src := if s.cfg.shift = .old then s.getV y else s.getV x
    (∃ t, exec (.shr x y) s = .next t ∧ (x ≠ 15 → (t.getV x).toNat = src.toNat / 2) ∧
      (t.getV 15).toNat = (s.getV x).toNat % 2 ∧ Frame { v := fun r => r == x || r == 15 } s t) ∧
    (∃ t, exec (.shl x y) s = .next t ∧ (x ≠ 15 → (t.getV x).toNat = src.toNat * 2 % 256) ∧
      (t.getV 15).toNat = (s.getV x).toNat % 2 ∧ Frame { v := fun r => r == x || r == 15 } s t)

/-- R163, R165: CXNN writes the environment's byte masked with NN, whatever that byte is. The byte is the free value
`Config.randomByte` at the draw's number, and `draws` is the model's own counter (log entry 4). -/
def Obligations.RndMasksDrawnByte : Prop :=
  ∀ (s : State) (x : Reg) (nn : Byte), EncodedAs (.rnd x nn) 0xF000 0xC000 ∧
    ∃ t, exec (.rnd x nn) s = .next t ∧ t.draws = s.draws + 1 ∧
      (∀ k < 8, (t.getV x).getLsbD k = ((Config.randomByte s.draws).getLsbD k && nn.getLsbD k)) ∧
      Frame { v := fun r => r == x, draws := true } s t

/-! ### Index register and memory -/

/-- R172: ANNN sets `I` to NNN and changes nothing else. -/
def Obligations.LdIndexSetsI : Prop :=
  ∀ (s : State) (nnn : Addr12), EncodedAs (.ldINnn nnn) 0xF000 0xA000 ∧
    ∃ t, exec (.ldINnn nnn) s = .next t ∧ t.i.toNat = nnn.toNat ∧ Frame { i := true } s t

/-- R175: FX1E adds VX to `I` modulo 0x1000; under `cfg.index_overflow = NEW` VF becomes 1 when the raw sum exceeds 0xFFF, and
in every other case VF is not written (without overflow under NEW that is R176, decision D24, log entry 15). -/
def Obligations.AddIndexWrapsAndReportsOverflow : Prop :=
  ∀ (s : State) (x : Reg), EncodedAs (.addIVx x) 0xF0FF 0xF01E ∧
    let sum := s.i.toNat + (s.getV x).toNat
    ∃ t, exec (.addIVx x) s = .next t ∧ t.i.toNat = sum % 0x1000 ∧
      (s.cfg.indexOverflow = .new → 0xFFF < sum → t.getV 15 = 1) ∧
      Frame { i := true, v := fun r => r == 15 && (s.cfg.indexOverflow == .new && decide (0xFFF < sum)) } s t

/-- R178: FX29 points `I` at the glyph of the low nibble of VX, for every legal `FONT_BASE` (R8). -/
def Obligations.LdFontPointsAtGlyph : Prop :=
  ∀ (s : State) (x : Reg), s.cfg.wf = true → EncodedAs (.ldFVx x) 0xF0FF 0xF029 ∧
    ∃ t, exec (.ldFVx x) s = .next t ∧ t.i.toNat = (s.getV x).toNat % 16 * 5 + s.cfg.fontBase ∧
      t.i.toNat ≤ s.cfg.fontBase + 75 ∧ Frame { i := true } s t

/-- R181: FX33 stores the three decimal digits of VX at `I`, `I+1`, `I+2` and changes nothing else, `I` included; if a digit
would fall outside memory it raises `OutOfBounds` and writes nothing (R170: decision D9, log entry 10; the entry and the
record's `pc`: decisions D15, D16, log entry 8). The premise on memory is part of the invariant `State.Inv`. -/
def Obligations.LdBcdStoresDigits : Prop :=
  ∀ (s : State) (x : Reg), s.mem.wf = true → EncodedAs (.ldBVx x) 0xF0FF 0xF033 ∧
    (s.i.toNat + 2 < 0x1000 → ∃ t, exec (.ldBVx x) s = .next t ∧
      (t.mem.byteAt s.i.toNat).toNat = (s.getV x).toNat / 100 ∧
      (t.mem.byteAt (s.i.toNat + 1)).toNat = (s.getV x).toNat / 10 % 10 ∧
      (t.mem.byteAt (s.i.toNat + 2)).toNat = (s.getV x).toNat % 10 ∧
      Frame { mem := fun a => decide (s.i.toNat ≤ a ∧ a < s.i.toNat + 3) } s t) ∧
    (0x1000 ≤ s.i.toNat + 2 → Raises (.ldBVx x) s .outOfBounds (some (max s.i.toNat 0x1000)) none)

/-- R184 (decision D10 for the wrap): FX55 stores V0..VX at `I..I+X` and, under `cfg.index_increment = OLD`, advances `I` by
X + 1 modulo 0x1000; nothing else changes; if a byte would fall outside memory it raises `OutOfBounds` and writes
nothing. D10 is log entry 11; the bound is decision D9 (log entry 10), the entry and the record's `pc` decisions D15, D16 (log
entry 8). The premise on memory is part of the invariant `State.Inv`. -/
def Obligations.StoreRegistersWritesBlock : Prop :=
  ∀ (s : State) (x : Reg), s.mem.wf = true → EncodedAs (.ldMiVx x) 0xF0FF 0xF055 ∧
    (s.i.toNat + x.val < 0x1000 → ∃ t, exec (.ldMiVx x) s = .next t ∧
      (∀ k : Reg, k ≤ x → t.mem.byteAt (s.i.toNat + k) = s.getV k) ∧
      (s.cfg.indexIncrement = .old → t.i.toNat = (s.i.toNat + x.val + 1) % 0x1000) ∧
      Frame { i := s.cfg.indexIncrement == .old,
              mem := fun a => decide (s.i.toNat ≤ a ∧ a < s.i.toNat + x.val + 1) } s t) ∧
    (0x1000 ≤ s.i.toNat + x.val → Raises (.ldMiVx x) s .outOfBounds (some (max s.i.toNat 0x1000)) none)

/-- R186 (decision D10 for the wrap): FX65 loads V0..VX from `I..I+X` and leaves the registers above VX; `I` as for FX55;
nothing else changes; if a byte lies outside memory it raises `OutOfBounds` and writes nothing. D10 is log entry 11; the bound is
decision D9 (log entry 10), the entry and the record's `pc` decisions D15, D16 (log entry 8). -/
def Obligations.LoadRegistersReadsBlock : Prop :=
  ∀ (s : State) (x : Reg), EncodedAs (.ldVxMi x) 0xF0FF 0xF065 ∧
    (s.i.toNat + x.val < 0x1000 → ∃ t, exec (.ldVxMi x) s = .next t ∧
      (∀ k : Reg, k ≤ x → t.getV k = s.mem.byteAt (s.i.toNat + k)) ∧
      (s.cfg.indexIncrement = .old → t.i.toNat = (s.i.toNat + x.val + 1) % 0x1000) ∧
      Frame { i := s.cfg.indexIncrement == .old, v := fun r => decide (r ≤ x) } s t) ∧
    (0x1000 ≤ s.i.toNat + x.val → Raises (.ldVxMi x) s .outOfBounds (some (max s.i.toNat 0x1000)) none)

/-- R64 (decision D21): the next fetch sees a store: when FX55 stores over the word at the advanced `pc`, that word is then
V0, V1, big-endian. -/
def Obligations.FetchSeesStoredCode : Prop :=
  ∀ (s : State) (x : Reg), s.mem.wf = true → 1 ≤ x.val → s.i.toNat + x.val < 0x1000 → s.pc = s.i →
    ∃ t, exec (.ldMiVx x) s = .next t ∧ t.pc = s.pc ∧
      t.mem.loadWord t.pc.toNat = .ok (wordOfBytes (s.getV 0) (s.getV 1))

/-- R54, R28, R25: over a core step memory changes only by FX33 and FX55, the stack only by 2NNN and 00EE, and `I` only by
ANNN, FX1E, FX29 and, under `cfg.index_increment = OLD`, FX55 and FX65. -/
def Obligations.OnlyListedInstructionsWriteMemoryStackAndIndex : Prop :=
  ∀ s t : State, s.nextTurn = .core → step s = .next t →
    let w := wordOfBytes (s.mem.byteAt s.pc.toNat) (s.mem.byteAt (s.pc.toNat + 1))
    (t.mem ≠ s.mem → w &&& 0xF0FF = 0xF033 ∨ w &&& 0xF0FF = 0xF055) ∧
    (t.stack ≠ s.stack → w &&& 0xF000 = 0x2000 ∨ w = 0x00EE) ∧
    (t.i ≠ s.i → w &&& 0xF000 = 0xA000 ∨ w &&& 0xF0FF = 0xF01E ∨ w &&& 0xF0FF = 0xF029 ∨
      (s.cfg.indexIncrement = .old ∧ (w &&& 0xF0FF = 0xF055 ∨ w &&& 0xF0FF = 0xF065)))

/-- R33: VF changes only by the instructions that write it as a flag, or by one whose destination it is. -/
def Obligations.OnlyListedInstructionsWriteVf : Prop :=
  ∀ (i : Instr) (s t : State), exec i s = .next t → t.getV 15 ≠ s.getV 15 →
    (∃ x y, i = .addVxVy x y ∨ i = .sub x y ∨ i = .subn x y ∨ i = .shr x y ∨ i = .shl x y) ∨
    (∃ x y n, i = .drw x y n) ∨
    (∃ x, i = .addIVx x ∧ s.cfg.indexOverflow = .new ∧ 0xFFF < s.i.toNat + (s.getV x).toNat) ∨
    (∃ nn, i = .ldVxNn 15 nn ∨ i = .addVxNn 15 nn ∨ i = .rnd 15 nn) ∨
    (∃ y, i = .ldVxVy 15 y ∨ i = .or 15 y ∨ i = .and 15 y ∨ i = .xor 15 y) ∨
    i = .ldVxDt 15 ∨ i = .ldVxK 15 ∨ i = .ldVxMi 15

/-! ### Keypad and timers -/

/-- R190, R192, R194 (decision D13 for the fault): EX9E skips iff the key VX is down, EXA1 iff it is up; a value above 0xF
raises `KeyIndexOutOfRange` and writes nothing (D13 is log entry 13; the entry and the record's `pc`: decisions D15, D16, log
entry 8). -/
def Obligations.KeySkipsReadSnapshot : Prop :=
  ∀ (s : State) (x : Reg), EncodedAs (.skp x) 0xF0FF 0xE09E ∧ EncodedAs (.sknp x) 0xF0FF 0xE0A1 ∧
    (∀ k : Key, (s.getV x).toNat = k.val →
      (∃ t, exec (.skp x) s = .next t ∧ t.pc = (if s.keys[k] then s.pc + 2 else s.pc) ∧ Frame { pc := true } s t) ∧
      (∃ t, exec (.sknp x) s = .next t ∧ t.pc = (if s.keys[k] then s.pc else s.pc + 2) ∧ Frame { pc := true } s t)) ∧
    (0xF < (s.getV x).toNat →
      Raises (.skp x) s .keyIndexOutOfRange none (some (s.getV x)) ∧
      Raises (.sknp x) s .keyIndexOutOfRange none (some (s.getV x)))

/-- R198: FX0A loads the lowest key down into VX, or with no key down sets `pc` back to its own address. -/
def Obligations.KeyWaitTakesLowestKey : Prop :=
  ∀ (s : State) (x : Reg), EncodedAs (.ldVxK x) 0xF0FF 0xF00A ∧
    (∀ k : Key, s.keys[k] = true → (∀ j : Key, j < k → s.keys[j] = false) →
      ∃ t, exec (.ldVxK x) s = .next t ∧ (t.getV x).toNat = k.val ∧ Frame { v := fun r => r == x } s t) ∧
    ((∀ k : Key, s.keys[k] = false) →
      ∃ t, exec (.ldVxK x) s = .next t ∧ t.pc = s.pc - 2 ∧ Frame { pc := true } s t)

/-- R38, R198: while FX0A waits, a whole core step leaves the state as it is but for the turn used up (log entry 5):
the wait is carried by `pc` alone. -/
def Obligations.KeyWaitStepChangesNothing : Prop :=
  ∀ s : State, s.CoreReady → s.pc.toNat + 1 < 0x1000 →
    wordOfBytes (s.mem.byteAt s.pc.toNat) (s.mem.byteAt (s.pc.toNat + 1)) &&& 0xF0FF = 0xF00A →
    (∀ k : Key, s.keys[k] = false) → step s = .next s.turnUsed

/-- R196: FX07 copies DT to VX. -/
def Obligations.ReadDelayTimer : Prop :=
  ∀ (s : State) (x : Reg), EncodedAs (.ldVxDt x) 0xF0FF 0xF007 ∧
    ∃ t, exec (.ldVxDt x) s = .next t ∧ t.getV x = s.dt ∧ Frame { v := fun r => r == x } s t

/-- R201, R203: FX15 sets DT and FX18 sets ST to VX, and nothing else. -/
def Obligations.WriteTimers : Prop :=
  ∀ (s : State) (x : Reg), EncodedAs (.ldDtVx x) 0xF0FF 0xF015 ∧ EncodedAs (.ldStVx x) 0xF0FF 0xF018 ∧
    (∃ t, exec (.ldDtVx x) s = .next t ∧ t.dt = s.getV x ∧ Frame { dt := true } s t) ∧
    (∃ t, exec (.ldStVx x) s = .next t ∧ t.st = s.getV x ∧ Frame { st := true } s t)

/-- R27: no instruction reads ST: from two states that differ in ST alone every instruction goes to states that differ in ST
alone, and FX18 to the same state. -/
def Obligations.NoInstructionReadsSoundTimer : Prop :=
  ∀ (i : Instr) (s t : State) (b : Byte), exec i s = .next t →
    ((∀ x, i ≠ .ldStVx x) → exec i (s.setSt b) = .next (t.setSt b)) ∧
    (∀ x, i = .ldStVx x → exec i (s.setSt b) = .next t)

/-- R60, R61: the timer agent touches only DT and ST, so a tick commutes with every instruction but FX07, FX15 and FX18. -/
def Obligations.TickCommutesWithOtherInstructions : Prop :=
  ∀ (i : Instr) (s t : State), exec i s = .next t →
    (∀ x, i ≠ .ldVxDt x ∧ i ≠ .ldDtVx x ∧ i ≠ .ldStVx x) → exec i s.tick = .next t.tick

/-! ### Display events -/

/-- R18, R226, R228: the host consumes the oldest display event and changes no core state; with no event there is nothing to
consume. The list of events is the model's choice (log entry 7), the turn used up log entry 5. -/
def Obligations.HostTakesOldestEvent : Prop :=
  ∀ s : State, s.nextTurn = .takeEvent →
    (∀ e rest, s.events = e :: rest → step s = .next { s.turnUsed with events := rest }) ∧
    (s.events = [] → step s = .next s.turnUsed)
end

