-- ==== Sys2Proof/Laws/State.lean ====
section
/-! SUPPORT. What each named update of State does to each field, each true by rfl: a later proof rewrites with these and never
unfolds a record update. -/

namespace Sys2Proof.Machine

variable (s : State)

/-- A flag write is a write of V[15]. -/
@[simp] theorem setVF_eq (b : Byte) : s.setVF b = s.setV vf b := rfl

/-! ### `setV` -/

@[simp] theorem setV_v (x : Reg) (b : Byte) : (s.setV x b).v = s.v.set x b := rfl
@[simp] theorem setV_i (x : Reg) (b : Byte) : (s.setV x b).i = s.i := rfl
@[simp] theorem setV_pc (x : Reg) (b : Byte) : (s.setV x b).pc = s.pc := rfl
@[simp] theorem setV_dt (x : Reg) (b : Byte) : (s.setV x b).dt = s.dt := rfl
@[simp] theorem setV_st (x : Reg) (b : Byte) : (s.setV x b).st = s.st := rfl
@[simp] theorem setV_stack (x : Reg) (b : Byte) : (s.setV x b).stack = s.stack := rfl
@[simp] theorem setV_mem (x : Reg) (b : Byte) : (s.setV x b).mem = s.mem := rfl
@[simp] theorem setV_screen (x : Reg) (b : Byte) : (s.setV x b).screen = s.screen := rfl
@[simp] theorem setV_keys (x : Reg) (b : Byte) : (s.setV x b).keys = s.keys := rfl
@[simp] theorem setV_halted (x : Reg) (b : Byte) : (s.setV x b).halted = s.halted := rfl
@[simp] theorem setV_cfg (x : Reg) (b : Byte) : (s.setV x b).cfg = s.cfg := rfl
@[simp] theorem setV_events (x : Reg) (b : Byte) : (s.setV x b).events = s.events := rfl
@[simp] theorem setV_quit (x : Reg) (b : Byte) : (s.setV x b).quit = s.quit := rfl
@[simp] theorem setV_draws (x : Reg) (b : Byte) : (s.setV x b).draws = s.draws := rfl
@[simp] theorem setV_schedule (x : Reg) (b : Byte) : (s.setV x b).schedule = s.schedule := rfl
@[simp] theorem setV_pixel (x : Reg) (b : Byte) (p : Pixel) : (s.setV x b).pixel p = s.pixel p := rfl

/-! ### `setI` -/

@[simp] theorem setI_v (w : Word) : (s.setI w).v = s.v := rfl
@[simp] theorem setI_i (w : Word) : (s.setI w).i = w := rfl
@[simp] theorem setI_pc (w : Word) : (s.setI w).pc = s.pc := rfl
@[simp] theorem setI_dt (w : Word) : (s.setI w).dt = s.dt := rfl
@[simp] theorem setI_st (w : Word) : (s.setI w).st = s.st := rfl
@[simp] theorem setI_stack (w : Word) : (s.setI w).stack = s.stack := rfl
@[simp] theorem setI_mem (w : Word) : (s.setI w).mem = s.mem := rfl
@[simp] theorem setI_screen (w : Word) : (s.setI w).screen = s.screen := rfl
@[simp] theorem setI_keys (w : Word) : (s.setI w).keys = s.keys := rfl
@[simp] theorem setI_halted (w : Word) : (s.setI w).halted = s.halted := rfl
@[simp] theorem setI_cfg (w : Word) : (s.setI w).cfg = s.cfg := rfl
@[simp] theorem setI_events (w : Word) : (s.setI w).events = s.events := rfl
@[simp] theorem setI_quit (w : Word) : (s.setI w).quit = s.quit := rfl
@[simp] theorem setI_draws (w : Word) : (s.setI w).draws = s.draws := rfl
@[simp] theorem setI_schedule (w : Word) : (s.setI w).schedule = s.schedule := rfl
@[simp] theorem setI_getV (w : Word) (y : Reg) : (s.setI w).getV y = s.getV y := rfl
@[simp] theorem setI_pixel (w : Word) (p : Pixel) : (s.setI w).pixel p = s.pixel p := rfl

/-! ### `setPc` -/

@[simp] theorem setPc_v (w : Word) : (s.setPc w).v = s.v := rfl
@[simp] theorem setPc_i (w : Word) : (s.setPc w).i = s.i := rfl
@[simp] theorem setPc_pc (w : Word) : (s.setPc w).pc = w := rfl
@[simp] theorem setPc_dt (w : Word) : (s.setPc w).dt = s.dt := rfl
@[simp] theorem setPc_st (w : Word) : (s.setPc w).st = s.st := rfl
@[simp] theorem setPc_stack (w : Word) : (s.setPc w).stack = s.stack := rfl
@[simp] theorem setPc_mem (w : Word) : (s.setPc w).mem = s.mem := rfl
@[simp] theorem setPc_screen (w : Word) : (s.setPc w).screen = s.screen := rfl
@[simp] theorem setPc_keys (w : Word) : (s.setPc w).keys = s.keys := rfl
@[simp] theorem setPc_halted (w : Word) : (s.setPc w).halted = s.halted := rfl
@[simp] theorem setPc_cfg (w : Word) : (s.setPc w).cfg = s.cfg := rfl
@[simp] theorem setPc_events (w : Word) : (s.setPc w).events = s.events := rfl
@[simp] theorem setPc_quit (w : Word) : (s.setPc w).quit = s.quit := rfl
@[simp] theorem setPc_draws (w : Word) : (s.setPc w).draws = s.draws := rfl
@[simp] theorem setPc_schedule (w : Word) : (s.setPc w).schedule = s.schedule := rfl
@[simp] theorem setPc_getV (w : Word) (y : Reg) : (s.setPc w).getV y = s.getV y := rfl
@[simp] theorem setPc_pixel (w : Word) (p : Pixel) : (s.setPc w).pixel p = s.pixel p := rfl

/-! ### `setDt` -/

@[simp] theorem setDt_v (b : Byte) : (s.setDt b).v = s.v := rfl
@[simp] theorem setDt_i (b : Byte) : (s.setDt b).i = s.i := rfl
@[simp] theorem setDt_pc (b : Byte) : (s.setDt b).pc = s.pc := rfl
@[simp] theorem setDt_dt (b : Byte) : (s.setDt b).dt = b := rfl
@[simp] theorem setDt_st (b : Byte) : (s.setDt b).st = s.st := rfl
@[simp] theorem setDt_stack (b : Byte) : (s.setDt b).stack = s.stack := rfl
@[simp] theorem setDt_mem (b : Byte) : (s.setDt b).mem = s.mem := rfl
@[simp] theorem setDt_screen (b : Byte) : (s.setDt b).screen = s.screen := rfl
@[simp] theorem setDt_keys (b : Byte) : (s.setDt b).keys = s.keys := rfl
@[simp] theorem setDt_halted (b : Byte) : (s.setDt b).halted = s.halted := rfl
@[simp] theorem setDt_cfg (b : Byte) : (s.setDt b).cfg = s.cfg := rfl
@[simp] theorem setDt_events (b : Byte) : (s.setDt b).events = s.events := rfl
@[simp] theorem setDt_quit (b : Byte) : (s.setDt b).quit = s.quit := rfl
@[simp] theorem setDt_draws (b : Byte) : (s.setDt b).draws = s.draws := rfl
@[simp] theorem setDt_schedule (b : Byte) : (s.setDt b).schedule = s.schedule := rfl
@[simp] theorem setDt_getV (b : Byte) (y : Reg) : (s.setDt b).getV y = s.getV y := rfl
@[simp] theorem setDt_pixel (b : Byte) (p : Pixel) : (s.setDt b).pixel p = s.pixel p := rfl

/-! ### `setSt` -/

@[simp] theorem setSt_v (b : Byte) : (s.setSt b).v = s.v := rfl
@[simp] theorem setSt_i (b : Byte) : (s.setSt b).i = s.i := rfl
@[simp] theorem setSt_pc (b : Byte) : (s.setSt b).pc = s.pc := rfl
@[simp] theorem setSt_dt (b : Byte) : (s.setSt b).dt = s.dt := rfl
@[simp] theorem setSt_st (b : Byte) : (s.setSt b).st = b := rfl
@[simp] theorem setSt_stack (b : Byte) : (s.setSt b).stack = s.stack := rfl
@[simp] theorem setSt_mem (b : Byte) : (s.setSt b).mem = s.mem := rfl
@[simp] theorem setSt_screen (b : Byte) : (s.setSt b).screen = s.screen := rfl
@[simp] theorem setSt_keys (b : Byte) : (s.setSt b).keys = s.keys := rfl
@[simp] theorem setSt_halted (b : Byte) : (s.setSt b).halted = s.halted := rfl
@[simp] theorem setSt_cfg (b : Byte) : (s.setSt b).cfg = s.cfg := rfl
@[simp] theorem setSt_events (b : Byte) : (s.setSt b).events = s.events := rfl
@[simp] theorem setSt_quit (b : Byte) : (s.setSt b).quit = s.quit := rfl
@[simp] theorem setSt_draws (b : Byte) : (s.setSt b).draws = s.draws := rfl
@[simp] theorem setSt_schedule (b : Byte) : (s.setSt b).schedule = s.schedule := rfl
@[simp] theorem setSt_getV (b : Byte) (y : Reg) : (s.setSt b).getV y = s.getV y := rfl
@[simp] theorem setSt_pixel (b : Byte) (p : Pixel) : (s.setSt b).pixel p = s.pixel p := rfl

/-! ### `setStack` -/

@[simp] theorem setStack_v (l : List Word) : (s.setStack l).v = s.v := rfl
@[simp] theorem setStack_i (l : List Word) : (s.setStack l).i = s.i := rfl
@[simp] theorem setStack_pc (l : List Word) : (s.setStack l).pc = s.pc := rfl
@[simp] theorem setStack_dt (l : List Word) : (s.setStack l).dt = s.dt := rfl
@[simp] theorem setStack_st (l : List Word) : (s.setStack l).st = s.st := rfl
@[simp] theorem setStack_stack (l : List Word) : (s.setStack l).stack = l := rfl
@[simp] theorem setStack_mem (l : List Word) : (s.setStack l).mem = s.mem := rfl
@[simp] theorem setStack_screen (l : List Word) : (s.setStack l).screen = s.screen := rfl
@[simp] theorem setStack_keys (l : List Word) : (s.setStack l).keys = s.keys := rfl
@[simp] theorem setStack_halted (l : List Word) : (s.setStack l).halted = s.halted := rfl
@[simp] theorem setStack_cfg (l : List Word) : (s.setStack l).cfg = s.cfg := rfl
@[simp] theorem setStack_events (l : List Word) : (s.setStack l).events = s.events := rfl
@[simp] theorem setStack_quit (l : List Word) : (s.setStack l).quit = s.quit := rfl
@[simp] theorem setStack_draws (l : List Word) : (s.setStack l).draws = s.draws := rfl
@[simp] theorem setStack_schedule (l : List Word) : (s.setStack l).schedule = s.schedule := rfl
@[simp] theorem setStack_getV (l : List Word) (y : Reg) : (s.setStack l).getV y = s.getV y := rfl
@[simp] theorem setStack_pixel (l : List Word) (p : Pixel) : (s.setStack l).pixel p = s.pixel p := rfl

/-! ### `setMem` -/

@[simp] theorem setMem_v (m : Memory) : (s.setMem m).v = s.v := rfl
@[simp] theorem setMem_i (m : Memory) : (s.setMem m).i = s.i := rfl
@[simp] theorem setMem_pc (m : Memory) : (s.setMem m).pc = s.pc := rfl
@[simp] theorem setMem_dt (m : Memory) : (s.setMem m).dt = s.dt := rfl
@[simp] theorem setMem_st (m : Memory) : (s.setMem m).st = s.st := rfl
@[simp] theorem setMem_stack (m : Memory) : (s.setMem m).stack = s.stack := rfl
@[simp] theorem setMem_mem (m : Memory) : (s.setMem m).mem = m := rfl
@[simp] theorem setMem_screen (m : Memory) : (s.setMem m).screen = s.screen := rfl
@[simp] theorem setMem_keys (m : Memory) : (s.setMem m).keys = s.keys := rfl
@[simp] theorem setMem_halted (m : Memory) : (s.setMem m).halted = s.halted := rfl
@[simp] theorem setMem_cfg (m : Memory) : (s.setMem m).cfg = s.cfg := rfl
@[simp] theorem setMem_events (m : Memory) : (s.setMem m).events = s.events := rfl
@[simp] theorem setMem_quit (m : Memory) : (s.setMem m).quit = s.quit := rfl
@[simp] theorem setMem_draws (m : Memory) : (s.setMem m).draws = s.draws := rfl
@[simp] theorem setMem_schedule (m : Memory) : (s.setMem m).schedule = s.schedule := rfl
@[simp] theorem setMem_getV (m : Memory) (y : Reg) : (s.setMem m).getV y = s.getV y := rfl
@[simp] theorem setMem_pixel (m : Memory) (p : Pixel) : (s.setMem m).pixel p = s.pixel p := rfl

/-! ### `setScreen` -/

@[simp] theorem setScreen_v (sc : Vector (Vector Bool 32) 64) : (s.setScreen sc).v = s.v := rfl
@[simp] theorem setScreen_i (sc : Vector (Vector Bool 32) 64) : (s.setScreen sc).i = s.i := rfl
@[simp] theorem setScreen_pc (sc : Vector (Vector Bool 32) 64) : (s.setScreen sc).pc = s.pc := rfl
@[simp] theorem setScreen_dt (sc : Vector (Vector Bool 32) 64) : (s.setScreen sc).dt = s.dt := rfl
@[simp] theorem setScreen_st (sc : Vector (Vector Bool 32) 64) : (s.setScreen sc).st = s.st := rfl
@[simp] theorem setScreen_stack (sc : Vector (Vector Bool 32) 64) : (s.setScreen sc).stack = s.stack := rfl
@[simp] theorem setScreen_mem (sc : Vector (Vector Bool 32) 64) : (s.setScreen sc).mem = s.mem := rfl
@[simp] theorem setScreen_screen (sc : Vector (Vector Bool 32) 64) : (s.setScreen sc).screen = sc := rfl
@[simp] theorem setScreen_keys (sc : Vector (Vector Bool 32) 64) : (s.setScreen sc).keys = s.keys := rfl
@[simp] theorem setScreen_halted (sc : Vector (Vector Bool 32) 64) : (s.setScreen sc).halted = s.halted := rfl
@[simp] theorem setScreen_cfg (sc : Vector (Vector Bool 32) 64) : (s.setScreen sc).cfg = s.cfg := rfl
@[simp] theorem setScreen_events (sc : Vector (Vector Bool 32) 64) : (s.setScreen sc).events = s.events := rfl
@[simp] theorem setScreen_quit (sc : Vector (Vector Bool 32) 64) : (s.setScreen sc).quit = s.quit := rfl
@[simp] theorem setScreen_draws (sc : Vector (Vector Bool 32) 64) : (s.setScreen sc).draws = s.draws := rfl
@[simp] theorem setScreen_schedule (sc : Vector (Vector Bool 32) 64) : (s.setScreen sc).schedule = s.schedule := rfl
@[simp] theorem setScreen_getV (sc : Vector (Vector Bool 32) 64) (y : Reg) : (s.setScreen sc).getV y = s.getV y := rfl

/-! ### `setDraws` -/

@[simp] theorem setDraws_v (n : Nat) : (s.setDraws n).v = s.v := rfl
@[simp] theorem setDraws_i (n : Nat) : (s.setDraws n).i = s.i := rfl
@[simp] theorem setDraws_pc (n : Nat) : (s.setDraws n).pc = s.pc := rfl
@[simp] theorem setDraws_dt (n : Nat) : (s.setDraws n).dt = s.dt := rfl
@[simp] theorem setDraws_st (n : Nat) : (s.setDraws n).st = s.st := rfl
@[simp] theorem setDraws_stack (n : Nat) : (s.setDraws n).stack = s.stack := rfl
@[simp] theorem setDraws_mem (n : Nat) : (s.setDraws n).mem = s.mem := rfl
@[simp] theorem setDraws_screen (n : Nat) : (s.setDraws n).screen = s.screen := rfl
@[simp] theorem setDraws_keys (n : Nat) : (s.setDraws n).keys = s.keys := rfl
@[simp] theorem setDraws_halted (n : Nat) : (s.setDraws n).halted = s.halted := rfl
@[simp] theorem setDraws_cfg (n : Nat) : (s.setDraws n).cfg = s.cfg := rfl
@[simp] theorem setDraws_events (n : Nat) : (s.setDraws n).events = s.events := rfl
@[simp] theorem setDraws_quit (n : Nat) : (s.setDraws n).quit = s.quit := rfl
@[simp] theorem setDraws_draws (n : Nat) : (s.setDraws n).draws = n := rfl
@[simp] theorem setDraws_schedule (n : Nat) : (s.setDraws n).schedule = s.schedule := rfl
@[simp] theorem setDraws_getV (n : Nat) (y : Reg) : (s.setDraws n).getV y = s.getV y := rfl
@[simp] theorem setDraws_pixel (n : Nat) (p : Pixel) : (s.setDraws n).pixel p = s.pixel p := rfl

/-! ### `emit` -/

@[simp] theorem emit_v (e : DisplayEvent) : (s.emit e).v = s.v := rfl
@[simp] theorem emit_i (e : DisplayEvent) : (s.emit e).i = s.i := rfl
@[simp] theorem emit_pc (e : DisplayEvent) : (s.emit e).pc = s.pc := rfl
@[simp] theorem emit_dt (e : DisplayEvent) : (s.emit e).dt = s.dt := rfl
@[simp] theorem emit_st (e : DisplayEvent) : (s.emit e).st = s.st := rfl
@[simp] theorem emit_stack (e : DisplayEvent) : (s.emit e).stack = s.stack := rfl
@[simp] theorem emit_mem (e : DisplayEvent) : (s.emit e).mem = s.mem := rfl
@[simp] theorem emit_screen (e : DisplayEvent) : (s.emit e).screen = s.screen := rfl
@[simp] theorem emit_keys (e : DisplayEvent) : (s.emit e).keys = s.keys := rfl
@[simp] theorem emit_halted (e : DisplayEvent) : (s.emit e).halted = s.halted := rfl
@[simp] theorem emit_cfg (e : DisplayEvent) : (s.emit e).cfg = s.cfg := rfl
@[simp] theorem emit_events (e : DisplayEvent) : (s.emit e).events = s.events ++ [e] := rfl
@[simp] theorem emit_quit (e : DisplayEvent) : (s.emit e).quit = s.quit := rfl
@[simp] theorem emit_draws (e : DisplayEvent) : (s.emit e).draws = s.draws := rfl
@[simp] theorem emit_schedule (e : DisplayEvent) : (s.emit e).schedule = s.schedule := rfl
@[simp] theorem emit_getV (e : DisplayEvent) (y : Reg) : (s.emit e).getV y = s.getV y := rfl
@[simp] theorem emit_pixel (e : DisplayEvent) (p : Pixel) : (s.emit e).pixel p = s.pixel p := rfl

/-! ### `loadV` -/

@[simp] theorem loadV_v (l : List Byte) : (s.loadV l).v = s.v.mapIdx fun k old => l.getD k old := rfl
@[simp] theorem loadV_i (l : List Byte) : (s.loadV l).i = s.i := rfl
@[simp] theorem loadV_pc (l : List Byte) : (s.loadV l).pc = s.pc := rfl
@[simp] theorem loadV_dt (l : List Byte) : (s.loadV l).dt = s.dt := rfl
@[simp] theorem loadV_st (l : List Byte) : (s.loadV l).st = s.st := rfl
@[simp] theorem loadV_stack (l : List Byte) : (s.loadV l).stack = s.stack := rfl
@[simp] theorem loadV_mem (l : List Byte) : (s.loadV l).mem = s.mem := rfl
@[simp] theorem loadV_screen (l : List Byte) : (s.loadV l).screen = s.screen := rfl
@[simp] theorem loadV_keys (l : List Byte) : (s.loadV l).keys = s.keys := rfl
@[simp] theorem loadV_halted (l : List Byte) : (s.loadV l).halted = s.halted := rfl
@[simp] theorem loadV_cfg (l : List Byte) : (s.loadV l).cfg = s.cfg := rfl
@[simp] theorem loadV_events (l : List Byte) : (s.loadV l).events = s.events := rfl
@[simp] theorem loadV_quit (l : List Byte) : (s.loadV l).quit = s.quit := rfl
@[simp] theorem loadV_draws (l : List Byte) : (s.loadV l).draws = s.draws := rfl
@[simp] theorem loadV_schedule (l : List Byte) : (s.loadV l).schedule = s.schedule := rfl
@[simp] theorem loadV_pixel (l : List Byte) (p : Pixel) : (s.loadV l).pixel p = s.pixel p := rfl

/-! ### `takeFault` -/

@[simp] theorem takeFault_v (r : FaultRecord) : (s.takeFault r).v = s.v := rfl
@[simp] theorem takeFault_i (r : FaultRecord) : (s.takeFault r).i = s.i := rfl
@[simp] theorem takeFault_pc (r : FaultRecord) : (s.takeFault r).pc = r.pc := rfl
@[simp] theorem takeFault_dt (r : FaultRecord) : (s.takeFault r).dt = s.dt := rfl
@[simp] theorem takeFault_st (r : FaultRecord) : (s.takeFault r).st = s.st := rfl
@[simp] theorem takeFault_stack (r : FaultRecord) : (s.takeFault r).stack = s.stack := rfl
@[simp] theorem takeFault_mem (r : FaultRecord) : (s.takeFault r).mem = s.mem := rfl
@[simp] theorem takeFault_screen (r : FaultRecord) : (s.takeFault r).screen = s.screen := rfl
@[simp] theorem takeFault_keys (r : FaultRecord) : (s.takeFault r).keys = s.keys := rfl
@[simp] theorem takeFault_halted (r : FaultRecord) : (s.takeFault r).halted = .faulted r := rfl
@[simp] theorem takeFault_cfg (r : FaultRecord) : (s.takeFault r).cfg = s.cfg := rfl
@[simp] theorem takeFault_events (r : FaultRecord) : (s.takeFault r).events = s.events := rfl
@[simp] theorem takeFault_quit (r : FaultRecord) : (s.takeFault r).quit = s.quit := rfl
@[simp] theorem takeFault_draws (r : FaultRecord) : (s.takeFault r).draws = s.draws := rfl
@[simp] theorem takeFault_schedule (r : FaultRecord) : (s.takeFault r).schedule = s.schedule := rfl
@[simp] theorem takeFault_getV (r : FaultRecord) (y : Reg) : (s.takeFault r).getV y = s.getV y := rfl
@[simp] theorem takeFault_pixel (r : FaultRecord) (p : Pixel) : (s.takeFault r).pixel p = s.pixel p := rfl

/-! ### `tick` -/

@[simp] theorem tick_v : (s.tick).v = s.v := rfl
@[simp] theorem tick_i : (s.tick).i = s.i := rfl
@[simp] theorem tick_pc : (s.tick).pc = s.pc := rfl
@[simp] theorem tick_dt : (s.tick).dt = countDown s.dt := rfl
@[simp] theorem tick_st : (s.tick).st = countDown s.st := rfl
@[simp] theorem tick_stack : (s.tick).stack = s.stack := rfl
@[simp] theorem tick_mem : (s.tick).mem = s.mem := rfl
@[simp] theorem tick_screen : (s.tick).screen = s.screen := rfl
@[simp] theorem tick_keys : (s.tick).keys = s.keys := rfl
@[simp] theorem tick_halted : (s.tick).halted = s.halted := rfl
@[simp] theorem tick_cfg : (s.tick).cfg = s.cfg := rfl
@[simp] theorem tick_events : (s.tick).events = s.events := rfl
@[simp] theorem tick_quit : (s.tick).quit = s.quit := rfl
@[simp] theorem tick_draws : (s.tick).draws = s.draws := rfl
@[simp] theorem tick_schedule : (s.tick).schedule = s.schedule := rfl
@[simp] theorem tick_getV (y : Reg) : (s.tick).getV y = s.getV y := rfl
@[simp] theorem tick_pixel (p : Pixel) : (s.tick).pixel p = s.pixel p := rfl

/-! ### `refreshKeys` -/

@[simp] theorem refreshKeys_v (k : Vector Bool 16) : (s.refreshKeys k).v = s.v := rfl
@[simp] theorem refreshKeys_i (k : Vector Bool 16) : (s.refreshKeys k).i = s.i := rfl
@[simp] theorem refreshKeys_pc (k : Vector Bool 16) : (s.refreshKeys k).pc = s.pc := rfl
@[simp] theorem refreshKeys_dt (k : Vector Bool 16) : (s.refreshKeys k).dt = s.dt := rfl
@[simp] theorem refreshKeys_st (k : Vector Bool 16) : (s.refreshKeys k).st = s.st := rfl
@[simp] theorem refreshKeys_stack (k : Vector Bool 16) : (s.refreshKeys k).stack = s.stack := rfl
@[simp] theorem refreshKeys_mem (k : Vector Bool 16) : (s.refreshKeys k).mem = s.mem := rfl
@[simp] theorem refreshKeys_screen (k : Vector Bool 16) : (s.refreshKeys k).screen = s.screen := rfl
@[simp] theorem refreshKeys_keys (k : Vector Bool 16) : (s.refreshKeys k).keys = k := rfl
@[simp] theorem refreshKeys_halted (k : Vector Bool 16) : (s.refreshKeys k).halted = s.halted := rfl
@[simp] theorem refreshKeys_cfg (k : Vector Bool 16) : (s.refreshKeys k).cfg = s.cfg := rfl
@[simp] theorem refreshKeys_events (k : Vector Bool 16) : (s.refreshKeys k).events = s.events := rfl
@[simp] theorem refreshKeys_quit (k : Vector Bool 16) : (s.refreshKeys k).quit = s.quit := rfl
@[simp] theorem refreshKeys_draws (k : Vector Bool 16) : (s.refreshKeys k).draws = s.draws := rfl
@[simp] theorem refreshKeys_schedule (k : Vector Bool 16) : (s.refreshKeys k).schedule = s.schedule := rfl
@[simp] theorem refreshKeys_getV (k : Vector Bool 16) (y : Reg) : (s.refreshKeys k).getV y = s.getV y := rfl
@[simp] theorem refreshKeys_pixel (k : Vector Bool 16) (p : Pixel) : (s.refreshKeys k).pixel p = s.pixel p := rfl

/-! ### `requestQuit` -/

@[simp] theorem requestQuit_v : (s.requestQuit).v = s.v := rfl
@[simp] theorem requestQuit_i : (s.requestQuit).i = s.i := rfl
@[simp] theorem requestQuit_pc : (s.requestQuit).pc = s.pc := rfl
@[simp] theorem requestQuit_dt : (s.requestQuit).dt = s.dt := rfl
@[simp] theorem requestQuit_st : (s.requestQuit).st = s.st := rfl
@[simp] theorem requestQuit_stack : (s.requestQuit).stack = s.stack := rfl
@[simp] theorem requestQuit_mem : (s.requestQuit).mem = s.mem := rfl
@[simp] theorem requestQuit_screen : (s.requestQuit).screen = s.screen := rfl
@[simp] theorem requestQuit_keys : (s.requestQuit).keys = s.keys := rfl
@[simp] theorem requestQuit_halted : (s.requestQuit).halted = s.halted := rfl
@[simp] theorem requestQuit_cfg : (s.requestQuit).cfg = s.cfg := rfl
@[simp] theorem requestQuit_events : (s.requestQuit).events = s.events := rfl
@[simp] theorem requestQuit_quit : (s.requestQuit).quit = true := rfl
@[simp] theorem requestQuit_draws : (s.requestQuit).draws = s.draws := rfl
@[simp] theorem requestQuit_schedule : (s.requestQuit).schedule = s.schedule := rfl
@[simp] theorem requestQuit_getV (y : Reg) : (s.requestQuit).getV y = s.getV y := rfl
@[simp] theorem requestQuit_pixel (p : Pixel) : (s.requestQuit).pixel p = s.pixel p := rfl

/-! ### `takeEvent` -/

@[simp] theorem takeEvent_v : (s.takeEvent).v = s.v := rfl
@[simp] theorem takeEvent_i : (s.takeEvent).i = s.i := rfl
@[simp] theorem takeEvent_pc : (s.takeEvent).pc = s.pc := rfl
@[simp] theorem takeEvent_dt : (s.takeEvent).dt = s.dt := rfl
@[simp] theorem takeEvent_st : (s.takeEvent).st = s.st := rfl
@[simp] theorem takeEvent_stack : (s.takeEvent).stack = s.stack := rfl
@[simp] theorem takeEvent_mem : (s.takeEvent).mem = s.mem := rfl
@[simp] theorem takeEvent_screen : (s.takeEvent).screen = s.screen := rfl
@[simp] theorem takeEvent_keys : (s.takeEvent).keys = s.keys := rfl
@[simp] theorem takeEvent_halted : (s.takeEvent).halted = s.halted := rfl
@[simp] theorem takeEvent_cfg : (s.takeEvent).cfg = s.cfg := rfl
@[simp] theorem takeEvent_events : (s.takeEvent).events = s.events.tail := rfl
@[simp] theorem takeEvent_quit : (s.takeEvent).quit = s.quit := rfl
@[simp] theorem takeEvent_draws : (s.takeEvent).draws = s.draws := rfl
@[simp] theorem takeEvent_schedule : (s.takeEvent).schedule = s.schedule := rfl
@[simp] theorem takeEvent_getV (y : Reg) : (s.takeEvent).getV y = s.getV y := rfl
@[simp] theorem takeEvent_pixel (p : Pixel) : (s.takeEvent).pixel p = s.pixel p := rfl

/-! ### `turnUsed` -/

@[simp] theorem turnUsed_v : (s.turnUsed).v = s.v := rfl
@[simp] theorem turnUsed_i : (s.turnUsed).i = s.i := rfl
@[simp] theorem turnUsed_pc : (s.turnUsed).pc = s.pc := rfl
@[simp] theorem turnUsed_dt : (s.turnUsed).dt = s.dt := rfl
@[simp] theorem turnUsed_st : (s.turnUsed).st = s.st := rfl
@[simp] theorem turnUsed_stack : (s.turnUsed).stack = s.stack := rfl
@[simp] theorem turnUsed_mem : (s.turnUsed).mem = s.mem := rfl
@[simp] theorem turnUsed_screen : (s.turnUsed).screen = s.screen := rfl
@[simp] theorem turnUsed_keys : (s.turnUsed).keys = s.keys := rfl
@[simp] theorem turnUsed_halted : (s.turnUsed).halted = s.halted := rfl
@[simp] theorem turnUsed_cfg : (s.turnUsed).cfg = s.cfg := rfl
@[simp] theorem turnUsed_events : (s.turnUsed).events = s.events := rfl
@[simp] theorem turnUsed_quit : (s.turnUsed).quit = s.quit := rfl
@[simp] theorem turnUsed_draws : (s.turnUsed).draws = s.draws := rfl
@[simp] theorem turnUsed_schedule : (s.turnUsed).schedule = s.schedule.tail := rfl
@[simp] theorem turnUsed_getV (y : Reg) : (s.turnUsed).getV y = s.getV y := rfl
@[simp] theorem turnUsed_pixel (p : Pixel) : (s.turnUsed).pixel p = s.pixel p := rfl

/-! ### `setResultThenFlag`: only V changes (`getV_setResultThenFlag`) -/

@[simp] theorem setResultThenFlag_i (x : Reg) (r b : Byte) : (s.setResultThenFlag x r b).i = s.i := rfl
@[simp] theorem setResultThenFlag_pc (x : Reg) (r b : Byte) : (s.setResultThenFlag x r b).pc = s.pc := rfl
@[simp] theorem setResultThenFlag_dt (x : Reg) (r b : Byte) : (s.setResultThenFlag x r b).dt = s.dt := rfl
@[simp] theorem setResultThenFlag_st (x : Reg) (r b : Byte) : (s.setResultThenFlag x r b).st = s.st := rfl
@[simp] theorem setResultThenFlag_stack (x : Reg) (r b : Byte) : (s.setResultThenFlag x r b).stack = s.stack := rfl
@[simp] theorem setResultThenFlag_mem (x : Reg) (r b : Byte) : (s.setResultThenFlag x r b).mem = s.mem := rfl
@[simp] theorem setResultThenFlag_screen (x : Reg) (r b : Byte) : (s.setResultThenFlag x r b).screen = s.screen := rfl
@[simp] theorem setResultThenFlag_keys (x : Reg) (r b : Byte) : (s.setResultThenFlag x r b).keys = s.keys := rfl
@[simp] theorem setResultThenFlag_halted (x : Reg) (r b : Byte) : (s.setResultThenFlag x r b).halted = s.halted := rfl
@[simp] theorem setResultThenFlag_cfg (x : Reg) (r b : Byte) : (s.setResultThenFlag x r b).cfg = s.cfg := rfl
@[simp] theorem setResultThenFlag_events (x : Reg) (r b : Byte) : (s.setResultThenFlag x r b).events = s.events := rfl
@[simp] theorem setResultThenFlag_quit (x : Reg) (r b : Byte) : (s.setResultThenFlag x r b).quit = s.quit := rfl
@[simp] theorem setResultThenFlag_draws (x : Reg) (r b : Byte) : (s.setResultThenFlag x r b).draws = s.draws := rfl
@[simp] theorem setResultThenFlag_schedule (x : Reg) (r b : Byte) : (s.setResultThenFlag x r b).schedule = s.schedule := rfl

end Sys2Proof.Machine
end

