-- ==== Sys2Proof/Laws/Ops.lean ====
section
/-! SUPPORT. What each shared operation can do, said once: registers, memory and its canonical form, the
bounds check, the screen, skipping, fault entry. The proofs about instructions cite these. -/

namespace Sys2Proof.Machine

/-! ### Registers -/

theorem getV_setV (s : State) (x y : Reg) (b : Byte) :
    (s.setV x b).getV y = if x = y then b else s.getV y := by
  simp [State.getV, State.setV, Vector.getElem_set, Fin.ext_iff]

@[simp] theorem getV_setV_same (s : State) (x : Reg) (b : Byte) : (s.setV x b).getV x = b := by
  simp [getV_setV]

theorem getV_setV_other (s : State) {x y : Reg} (b : Byte) (h : x ≠ y) :
    (s.setV x b).getV y = s.getV y := by
  simp [getV_setV, h]

theorem getV_loadV (s : State) (l : List Byte) (y : Reg) :
    (s.loadV l).getV y = l.getD y (s.getV y) := by
  simp [State.getV, State.loadV]

@[simp] theorem length_firstV (s : State) (n : Nat) : (s.firstV n).length = min n 16 := by
  simp [State.firstV]

theorem getElem_firstV (s : State) (n k : Nat) (h : k < (s.firstV n).length) :
    (s.firstV n)[k] = s.getV ⟨k, by simp at h; omega⟩ := by
  simp [State.firstV, State.getV]

/-- A result and then a flag: VF holds the flag, the destination the result unless it is VF, and no other
register changes (R21, R99). -/
theorem getV_setResultThenFlag (s : State) (x y : Reg) (r f : Byte) :
    (s.setResultThenFlag x r f).getV y = if y = vf then f else if y = x then r else s.getV y := by
  simp only [State.setResultThenFlag, setVF_eq, getV_setV, eq_comm]

/-! ### What nothing has written -/

/-- Outside the default font a byte that nothing has written is 0 (R43). -/
theorem resetByte_outside {a : Nat} (h : a < 0x050 ∨ 0x0A0 ≤ a) : resetByte a = 0 := by
  have hbase : defaultFontBase = 0x050 := rfl
  unfold resetByte
  by_cases hf : defaultFontBase ≤ a
  · rw [if_pos hf, List.getD_eq_default]
    simp only [Vector.length_toList]
    omega
  · rw [if_neg hf]

/-- In the default font it is the font's byte (R41, R43). -/
theorem resetByte_font (k : Fin 80) : resetByte (defaultFontBase + k.val) = defaultFontData[k] := by
  revert k
  decide

/-! ### Memory: reading after writing -/

theorem lookupCell_consCell_same (a : Nat) (b : Byte) (rest : List Host.Cell)
    (h : lookupCell a rest = resetByte a) : lookupCell a (consCell a b rest) = b := by
  unfold consCell
  split <;> simp_all [lookupCell]

theorem lookupCell_consCell_other {a a' : Nat} (b : Byte) (rest : List Host.Cell) (h : a' ≠ a) :
    lookupCell a' (consCell a b rest) = lookupCell a' rest := by
  unfold consCell
  split <;> simp_all [lookupCell]

/-- Below the first listed address nothing is listed. -/
theorem lookupCell_below {a lo : Nat} {l : List Host.Cell} (hw : cellsWf lo l = true) (h : a < lo) :
    lookupCell a l = resetByte a := by
  induction l generalizing lo with
  | nil => rfl
  | cons c rest ih =>
    simp only [cellsWf, Bool.and_eq_true, decide_eq_true_eq] at hw
    simp only [lookupCell]
    rw [if_neg (by omega), ih hw.2 (by omega)]

theorem lookupCell_putCell_same (a : Nat) (b : Byte) {lo : Nat} {l : List Host.Cell}
    (hw : cellsWf lo l = true) : lookupCell a (putCell a b l) = b := by
  induction l generalizing lo with
  | nil => exact lookupCell_consCell_same a b [] rfl
  | cons c rest ih =>
    have hw' := hw
    simp only [cellsWf, Bool.and_eq_true, decide_eq_true_eq] at hw
    simp only [putCell]
    split
    · refine lookupCell_consCell_same a b _ ?_
      simp only [lookupCell]
      rw [if_neg (by omega)]
      exact lookupCell_below hw.2 (by omega)
    · split
      · exact lookupCell_consCell_same a b _ (lookupCell_below hw.2 (by omega))
      · simp only [lookupCell]
        rw [if_neg (by omega)]
        exact ih hw.2

theorem lookupCell_putCell_other {a a' : Nat} (b : Byte) (l : List Host.Cell) (h : a' ≠ a) :
    lookupCell a' (putCell a b l) = lookupCell a' l := by
  induction l with
  | nil => exact lookupCell_consCell_other b [] h
  | cons c rest ih =>
    simp only [putCell]
    split
    · exact lookupCell_consCell_other b _ h
    · split
      · rw [lookupCell_consCell_other b _ h]
        simp only [lookupCell]
        rw [if_neg (by omega)]
      · simp only [lookupCell, ih]

/-- A byte written is the byte read. -/
theorem byteAt_setByte_same {m : Memory} (hw : m.wf = true) {a : Nat} (ha : a < memSize) (b : Byte) :
    (m.setByte a b).byteAt a = b := by
  simp only [Memory.setByte, if_pos ha, Memory.byteAt]
  exact lookupCell_putCell_same a b hw

/-- A write changes only the byte written (R57). -/
theorem byteAt_setByte_other (m : Memory) {a a' : Nat} (b : Byte) (h : a' ≠ a) :
    (m.setByte a b).byteAt a' = m.byteAt a' := by
  unfold Memory.setByte
  split
  · exact lookupCell_putCell_other b _ h
  · rfl

/-! ### Memory: the canonical form is kept -/

theorem cellsWf_mono {lo lo' : Nat} {l : List Host.Cell} (h : cellsWf lo l = true) (hl : lo' ≤ lo) :
    cellsWf lo' l = true := by
  cases l with
  | nil => rfl
  | cons c rest =>
    simp only [cellsWf, Bool.and_eq_true, decide_eq_true_eq] at h ⊢
    exact ⟨⟨⟨by omega, h.1.1.2⟩, h.1.2⟩, h.2⟩

theorem cellsWf_consCell {lo a : Nat} (b : Byte) {rest : List Host.Cell} (hlo : lo ≤ a) (ha : a < memSize)
    (hw : cellsWf (a + 1) rest = true) : cellsWf lo (consCell a b rest) = true := by
  unfold consCell
  split
  · exact cellsWf_mono hw (by omega)
  · simp_all [cellsWf]

theorem cellsWf_putCell {lo a : Nat} (b : Byte) {l : List Host.Cell} (hlo : lo ≤ a) (ha : a < memSize)
    (hw : cellsWf lo l = true) : cellsWf lo (putCell a b l) = true := by
  induction l generalizing lo with
  | nil => exact cellsWf_consCell b hlo ha rfl
  | cons c rest ih =>
    have hw' := hw
    simp only [cellsWf, Bool.and_eq_true, decide_eq_true_eq] at hw
    simp only [putCell]
    split
    · refine cellsWf_consCell b hlo ha ?_
      simp only [cellsWf, Bool.and_eq_true, decide_eq_true_eq]
      exact ⟨⟨⟨by omega, hw.1.1.2⟩, hw.1.2⟩, hw.2⟩
    · split
      · exact cellsWf_consCell b hlo ha (cellsWf_mono hw.2 (by omega))
      · simp only [cellsWf, Bool.and_eq_true, decide_eq_true_eq]
        exact ⟨hw.1, ih (by omega) hw.2⟩

theorem setByte_wf {m : Memory} (hw : m.wf = true) (a : Nat) (b : Byte) : (m.setByte a b).wf = true := by
  unfold Memory.setByte
  split
  · exact cellsWf_putCell b (Nat.zero_le _) ‹_› hw
  · exact hw

theorem setBytes_wf {m : Memory} (hw : m.wf = true) (a : Nat) (l : List Byte) :
    (m.setBytes a l).wf = true := by
  induction l generalizing m a with
  | nil => exact hw
  | cons b rest ih => exact ih (setByte_wf hw a b) (a + 1)

theorem store_wf {m m' : Memory} (hw : m.wf = true) {a : Nat} {l : List Byte} (h : m.store a l = .ok m') :
    m'.wf = true := by
  unfold Memory.store at h
  split at h
  · cases h
  · cases h; exact setBytes_wf hw a l

theorem loadRom_wf {m m' : Memory} (hw : m.wf = true) {rom : List Byte} (h : m.loadRom rom = .ok m') :
    m'.wf = true := by
  unfold Memory.loadRom at h
  split at h
  · cases h
  · cases h; exact setBytes_wf hw _ rom

theorem empty_wf : Memory.empty.wf = true := rfl

theorem bootMemory_wf (p : Params) : (bootMemory p).wf = true :=
  setBytes_wf (setBytes_wf empty_wf _ _) _ _

/-! ### Memory: several bytes -/

theorem byteAt_setBytes_other (m : Memory) {a a' : Nat} (l : List Byte) (h : a' < a ∨ a + l.length ≤ a') :
    (m.setBytes a l).byteAt a' = m.byteAt a' := by
  induction l generalizing m a with
  | nil => rfl
  | cons b rest ih =>
    simp only [List.length_cons] at h
    rw [Memory.setBytes, ih _ (by omega), byteAt_setByte_other _ _ (by omega)]

theorem byteAt_setBytes_same {m : Memory} (hw : m.wf = true) {a : Nat} {l : List Byte} (k : Nat)
    (hk : k < l.length) (ha : a + k < memSize) : (m.setBytes a l).byteAt (a + k) = l[k] := by
  induction l generalizing m a k with
  | nil => simp at hk
  | cons b rest ih =>
    rw [Memory.setBytes]
    cases k with
    | zero =>
      rw [byteAt_setBytes_other _ _ (by omega)]
      exact byteAt_setByte_same hw ha b
    | succ k =>
      have := ih (setByte_wf hw a b) (a := a + 1) k (by simpa using hk) (by omega)
      simpa [Nat.add_assoc, Nat.add_comm 1] using this

@[simp] theorem length_bytesAt (m : Memory) (a n : Nat) : (m.bytesAt a n).length = n := by
  induction n generalizing a with
  | zero => rfl
  | succ n ih => simp [Memory.bytesAt, ih]

theorem getElem_bytesAt (m : Memory) (a n k : Nat) (h : k < (m.bytesAt a n).length) :
    (m.bytesAt a n)[k] = m.byteAt (a + k) := by
  induction n generalizing a k with
  | zero => simp [Memory.bytesAt] at h
  | succ n ih =>
    cases k with
    | zero => rfl
    | succ k =>
      simp only [Memory.bytesAt, List.getElem_cons_succ]
      rw [ih]
      congr 1
      omega

/-! ### The bounds check -/

theorem lowestOutside_eq_none_iff (a n : Nat) : lowestOutside a n = none ↔ n = 0 ∨ a + n ≤ memSize := by
  unfold lowestOutside memSize
  split <;> simp <;> omega

theorem lowestOutside_eq_some_iff (a n bad : Nat) :
    lowestOutside a n = some bad ↔ (0 < n ∧ memSize < a + n) ∧ bad = max a memSize := by
  unfold lowestOutside memSize
  split <;> simp <;> omega

/-- A load inside memory answers the bytes. -/
theorem load_inside (m : Memory) {a n : Nat} (h : n = 0 ∨ a + n ≤ memSize) : m.load a n = .ok (m.bytesAt a n) := by
  simp [Memory.load, (lowestOutside_eq_none_iff a n).mpr h]

/-- A load that reaches past memory answers the lowest address outside. -/
theorem load_outside (m : Memory) {a n : Nat} (h : 0 < n) (h' : memSize < a + n) :
    m.load a n = .error (max a memSize) := by
  simp [Memory.load, (lowestOutside_eq_some_iff a n _).mpr ⟨⟨h, h'⟩, rfl⟩]

theorem store_inside (m : Memory) {a : Nat} {l : List Byte} (h : l.length = 0 ∨ a + l.length ≤ memSize) :
    m.store a l = .ok (m.setBytes a l) := by
  simp [Memory.store, (lowestOutside_eq_none_iff a _).mpr h]

theorem store_outside (m : Memory) {a : Nat} {l : List Byte} (h : 0 < l.length) (h' : memSize < a + l.length) :
    m.store a l = .error (max a memSize) := by
  simp [Memory.store, (lowestOutside_eq_some_iff a _ _).mpr ⟨⟨h, h'⟩, rfl⟩]

/-- The fetch of a word inside memory (R91). -/
theorem loadWord_inside (m : Memory) {a : Nat} (h : a + 1 < memSize) :
    m.loadWord a = .ok (wordOfBytes (m.byteAt a) (m.byteAt (a + 1))) := by
  simp only [Memory.loadWord, load_inside m (n := 2) (a := a) (by omega)]

/-- The fetch of a word that reaches past memory (R92). -/
theorem loadWord_outside (m : Memory) {a : Nat} (h : memSize ≤ a + 1) :
    m.loadWord a = .error (max a memSize) := by
  simp only [Memory.loadWord, load_outside m (n := 2) (a := a) (by omega) (by omega)]

/-! ### Screen -/

theorem pixel_togglePixel (s : State) (p q : Pixel) :
    (s.togglePixel p).pixel q = if p = q then !s.pixel p else s.pixel q := by
  obtain ⟨x, y⟩ := p
  obtain ⟨x', y'⟩ := q
  simp only [State.togglePixel, State.pixel, setScreen_screen, Fin.getElem_fin, Vector.getElem_set, Prod.mk.injEq]
  by_cases h : x = x' <;> by_cases h' : y = y' <;> simp_all [Fin.ext_iff]

/-- Drawing changes nothing but the screen. -/
theorem drawPixels_eq_setScreen (s : State) (c : Bool) (ps : List Pixel) :
    (s.drawPixels c ps).1 = s.setScreen (s.drawPixels c ps).1.screen := by
  induction ps generalizing s c with
  | nil => rfl
  | cons p rest ih =>
    rw [State.drawPixels, ih]
    rfl

theorem blank_pixel (s : State) (p : Pixel) : (s.setScreen blankScreen).pixel p = false := by
  simp [State.pixel, blankScreen]

/-! ### Skipping and fault entry -/

/-- A skip moves pc by 2 or leaves the state alone. -/
theorem skipIf_eq (s : State) (c : Bool) : s.skipIf c = s.setPc (if c then s.pc + 2 else s.pc) := by
  cases c <;> rfl

/-- A fault inside an instruction is a next state: all as before the step, `pc` the instruction's address,
halted with a record of that address, the word and the cause (R213, R214). -/
theorem raise_eq (s : State) (ins : Instr) (cause : FaultCause) (addr : Option Nat) (key : Option Byte) :
    raise s ins cause addr key =
      .next (s.takeFault ⟨cause, s.pc - 2, some (encode ins), addr, key⟩) := rfl

end Sys2Proof.Machine
end

