-- ==== Sys2Proof/Laws/Cycle.lean ====
section
/-! SUPPORT. What a turn, a core step and the execution of an instruction can do, said once. -/

namespace Sys2Proof.Machine

/-- What running an instruction can be: a fetch fault, a decode fault, or the meaning of the decoded
instruction after the advance (R90 to R95). -/
theorem runInstruction_cases (s : State) :
    (memSize ≤ s.pc.toNat + 1 ∧
      runInstruction s = raiseAtFetch s .outOfBounds none (some (max s.pc.toNat memSize))) ∨
    (∃ w, s.pc.toNat + 1 < memSize ∧ w = wordOfBytes (s.mem.byteAt s.pc.toNat) (s.mem.byteAt (s.pc.toNat + 1)) ∧
      decode w = .error (.unimplemented w) ∧
      runInstruction s = raiseAtFetch s .unimplementedInstruction (some w) none) ∨
    (∃ w i, s.pc.toNat + 1 < memSize ∧ w = wordOfBytes (s.mem.byteAt s.pc.toNat) (s.mem.byteAt (s.pc.toNat + 1)) ∧
      decode w = .ok i ∧ runInstruction s = exec i (s.setPc (s.pc + 2))) := by
  by_cases h : s.pc.toNat + 1 < memSize
  · right
    have hw := loadWord_inside s.mem h
    generalize hv : wordOfBytes (s.mem.byteAt s.pc.toNat) (s.mem.byteAt (s.pc.toNat + 1)) = w at hw
    cases hd : decode w with
    | ok i =>
      refine .inr ⟨w, i, h, rfl, hd, ?_⟩
      simp only [runInstruction, hw, hd]
    | error e =>
      refine .inl ⟨w, h, rfl, ?_, ?_⟩
      · cases e with
        | unimplemented w' =>
          revert hd
          unfold decode decodeFamily0 decodeLowNibbleZero decodeFamily8 decodeFamilyE decodeFamilyF
          repeat' split
          all_goals simp +contextual
        | truncated =>
          exfalso
          revert hd
          unfold decode decodeFamily0 decodeLowNibbleZero decodeFamily8 decodeFamilyE decodeFamilyF
          repeat' split
          all_goals simp
      · simp only [runInstruction, hw, hd]
  · left
    refine ⟨by omega, ?_⟩
    simp only [runInstruction, loadWord_outside s.mem (a := s.pc.toNat) (by omega)]

/-- A core step that answers a next state ran an instruction: the core was running and quit had not been
requested (R90). -/
theorem coreStep_next {s t : State} (h : coreStep s = .next t) :
    s.quit = false ∧ s.halted = .running ∧ runInstruction s = .next t := by
  unfold coreStep at h
  split at h
  · cases h
  · split at h
    · cases h
    · exact ⟨by simpa using ‹¬s.quit = true›, ‹_›, h⟩

/-- What a step that answers a next state was: the turn of one agent (R100). -/
theorem step_cases {s t : State} (h : step s = .next t) :
    (s.nextTurn = .core ∧ coreStep s.turnUsed = .next t) ∨
    (s.nextTurn = .tick ∧ t = s.turnUsed.tick) ∨
    (∃ k, s.nextTurn = .refreshKeys k ∧ t = s.turnUsed.refreshKeys k) ∨
    (s.nextTurn = .requestQuit ∧ t = s.turnUsed.requestQuit) ∨
    (s.nextTurn = .takeEvent ∧ t = s.turnUsed.takeEvent) := by
  unfold step takeTurn at h
  split at h
  · exact .inl ⟨‹_›, h⟩
  · cases h; exact .inr (.inl ⟨‹_›, rfl⟩)
  · cases h; exact .inr (.inr (.inl ⟨_, ‹_›, rfl⟩))
  · cases h; exact .inr (.inr (.inr (.inl ⟨‹_›, rfl⟩)))
  · cases h; exact .inr (.inr (.inr (.inr ⟨‹_›, rfl⟩)))

/-- A run of one more step, when the step answers a next state. -/
theorem run_next {n : Nat} {s s' : State} (h : step s = .next s') : core.run (n + 1) s = core.run n s' := by
  have h' : core.step s = .next s' := h
  have hrun := Host.Core.run.eq_2 core s n
  rw [h'] at hrun
  exact hrun

/-- A run of one more step that answers a next state took a step that did. -/
theorem run_succ_next {n : Nat} {s t : State} (h : core.run (n + 1) s = .next t) :
    ∃ s', step s = .next s' ∧ core.run n s' = .next t := by
  have hrun := (Host.Core.run.eq_2 core s n).symm.trans h
  split at hrun
  · exact ⟨_, ‹_›, hrun⟩
  · cases hrun
  · cases hrun

/-- The core's turn when the core is enabled runs an instruction. -/
theorem step_of_coreReady {s : State} (h : s.CoreReady) : step s = runInstruction s.turnUsed := by
  simp [step, h.turn, takeTurn, coreStep, h.noQuit, h.running]

end Sys2Proof.Machine
end

