-- ==== Sys2Proof/Laws/PerInstr.lean ====
section
/-! SUPPORT. The per-instruction family EncodesRow: the word of every instruction matches its row of the opcode map R86. -/

namespace Sys2Proof

theorem encodeNNN_mask (op : BitVec 4) (nnn : Addr12) :
    encodeNNN op nnn &&& 0xF000 = (op ++ 0#12 : BitVec (4 + 12)) := by
  have h : (0xF000 : Word) = (0xF#4 ++ 0#12 : BitVec (4 + 12)) := by decide
  have h' : op &&& 0xF#4 = op := by revert op; decide
  rw [h, encodeNNN, BitVec.and_append, h', BitVec.and_zero]

theorem encodeXNN_mask (op : BitVec 4) (x : Reg) (nn : Byte) :
    encodeXNN op x nn &&& 0xF000 = (op ++ 0#4 ++ 0#8 : BitVec (4 + 4 + 8)) := by
  have h : (0xF000 : Word) = (0xF#4 ++ 0#4 ++ 0#8 : BitVec (4 + 4 + 8)) := by decide
  have h' : op &&& 0xF#4 = op := by revert op; decide
  rw [h, encodeXNN, BitVec.and_append, BitVec.and_append, h', BitVec.and_zero, BitVec.and_zero]

theorem encodeX_mask (op : BitVec 4) (x : Reg) (sub : Byte) :
    encodeXNN op x sub &&& 0xF0FF = (op ++ 0#4 ++ sub : BitVec (4 + 4 + 8)) := by
  have h : (0xF0FF : Word) = (0xF#4 ++ 0#4 ++ 0xFF#8 : BitVec (4 + 4 + 8)) := by decide
  have h' : op &&& 0xF#4 = op := by revert op; decide
  have h'' : sub &&& 0xFF#8 = sub := BitVec.and_allOnes
  rw [h, encodeXNN, BitVec.and_append, BitVec.and_append, h', h'', BitVec.and_zero]

theorem encodeXYN_mask (op : BitVec 4) (x y : Reg) (n : BitVec 4) :
    encodeXYN op x y n &&& 0xF00F = (op ++ 0#4 ++ 0#4 ++ n : BitVec (4 + 4 + 4 + 4)) := by
  have h : (0xF00F : Word) = (0xF#4 ++ 0#4 ++ 0#4 ++ 0xF#4 : BitVec (4 + 4 + 4 + 4)) := by decide
  have h' (v : BitVec 4) : v &&& 0xF#4 = v := by revert v; decide
  rw [h, encodeXYN, BitVec.and_append, BitVec.and_append, BitVec.and_append, h', h', BitVec.and_zero, BitVec.and_zero]

theorem encodeXYN_family (op : BitVec 4) (x y : Reg) (n : BitVec 4) :
    encodeXYN op x y n &&& 0xF000 = (op ++ 0#4 ++ 0#4 ++ 0#4 : BitVec (4 + 4 + 4 + 4)) := by
  have h : (0xF000 : Word) = (0xF#4 ++ 0#4 ++ 0#4 ++ 0x0#4 : BitVec (4 + 4 + 4 + 4)) := by decide
  have h' (v : BitVec 4) : v &&& 0xF#4 = v := by revert v; decide
  rw [h, encodeXYN, BitVec.and_append, BitVec.and_append, BitVec.and_append, h', BitVec.and_zero, BitVec.and_zero, BitVec.and_zero]

namespace Laws.EncodesRow

/-- The instruction's word, masked with its row's mask, is the row's pattern (R72, R86). -/
def Statement (i : Instr) : Prop := encode i &&& i.row.mask = i.row.pattern

theorem cls : Statement (.cls) := by unfold Statement; decide

theorem ret : Statement (.ret) := by unfold Statement; decide

theorem jp (nnn : Addr12) : Statement (.jp nnn) := encodeNNN_mask _ nnn

theorem call (nnn : Addr12) : Statement (.call nnn) := encodeNNN_mask _ nnn

theorem seVxNn (x : Reg) (nn : Byte) : Statement (.seVxNn x nn) := encodeXNN_mask _ x nn

theorem sneVxNn (x : Reg) (nn : Byte) : Statement (.sneVxNn x nn) := encodeXNN_mask _ x nn

theorem seVxVy (x y : Reg) : Statement (.seVxVy x y) := encodeXYN_mask _ x y _

theorem ldVxNn (x : Reg) (nn : Byte) : Statement (.ldVxNn x nn) := encodeXNN_mask _ x nn

theorem addVxNn (x : Reg) (nn : Byte) : Statement (.addVxNn x nn) := encodeXNN_mask _ x nn

theorem ldVxVy (x y : Reg) : Statement (.ldVxVy x y) := encodeXYN_mask _ x y _

theorem or (x y : Reg) : Statement (.or x y) := encodeXYN_mask _ x y _

theorem and (x y : Reg) : Statement (.and x y) := encodeXYN_mask _ x y _

theorem xor (x y : Reg) : Statement (.xor x y) := encodeXYN_mask _ x y _

theorem addVxVy (x y : Reg) : Statement (.addVxVy x y) := encodeXYN_mask _ x y _

theorem sub (x y : Reg) : Statement (.sub x y) := encodeXYN_mask _ x y _

theorem subn (x y : Reg) : Statement (.subn x y) := encodeXYN_mask _ x y _

theorem shr (x y : Reg) : Statement (.shr x y) := encodeXYN_mask _ x y _

theorem shl (x y : Reg) : Statement (.shl x y) := encodeXYN_mask _ x y _

theorem sneVxVy (x y : Reg) : Statement (.sneVxVy x y) := encodeXYN_mask _ x y _

theorem ldINnn (nnn : Addr12) : Statement (.ldINnn nnn) := encodeNNN_mask _ nnn

theorem jpOff (nnn : Addr12) : Statement (.jpOff nnn) := encodeNNN_mask _ nnn

theorem rnd (x : Reg) (nn : Byte) : Statement (.rnd x nn) := encodeXNN_mask _ x nn

theorem drw (x y : Reg) (n : Nat) : Statement (.drw x y n) := encodeXYN_family _ x y _

theorem skp (x : Reg) : Statement (.skp x) := encodeX_mask _ x _

theorem sknp (x : Reg) : Statement (.sknp x) := encodeX_mask _ x _

theorem ldVxDt (x : Reg) : Statement (.ldVxDt x) := encodeX_mask _ x _

theorem ldVxK (x : Reg) : Statement (.ldVxK x) := encodeX_mask _ x _

theorem ldDtVx (x : Reg) : Statement (.ldDtVx x) := encodeX_mask _ x _

theorem ldStVx (x : Reg) : Statement (.ldStVx x) := encodeX_mask _ x _

theorem addIVx (x : Reg) : Statement (.addIVx x) := encodeX_mask _ x _

theorem ldFVx (x : Reg) : Statement (.ldFVx x) := encodeX_mask _ x _

theorem ldBVx (x : Reg) : Statement (.ldBVx x) := encodeX_mask _ x _

theorem ldMiVx (x : Reg) : Statement (.ldMiVx x) := encodeX_mask _ x _

theorem ldVxMi (x : Reg) : Statement (.ldVxMi x) := encodeX_mask _ x _

end Laws.EncodesRow

end Sys2Proof
end

