-- ==== Sys2Proof/Laws/Encoding.lean ====
section
/-! SUPPORT. Fields and encodings as numbers: what each field of a word is (spec/30_encoding.md R71), what number each format
encodes to (R72), and so what the fields of an encoded word are. -/

namespace Sys2Proof

/-! ### Fields of a word -/

theorem opcodeOf_toNat (w : Word) : (opcodeOf w).toNat = w.toNat / 4096 % 16 := by
  simp [opcodeOf, Nat.shiftRight_eq_div_pow]

theorem fieldX_val (w : Word) : (fieldX w).val = w.toNat / 256 % 16 := by
  simp [fieldX, Nat.shiftRight_eq_div_pow]

theorem fieldY_val (w : Word) : (fieldY w).val = w.toNat / 16 % 16 := by
  simp [fieldY, Nat.shiftRight_eq_div_pow]

theorem fieldN_eq (w : Word) : fieldN w = w.toNat % 16 := by
  simp [fieldN]

theorem fieldNN_toNat (w : Word) : (fieldNN w).toNat = w.toNat % 256 := by
  simp [fieldNN]

theorem fieldNNN_toNat (w : Word) : (fieldNNN w).toNat = w.toNat % 4096 := by
  simp [fieldNNN]

/-! ### The number a format encodes to -/

theorem append_toNat {m n : Nat} (a : BitVec m) (b : BitVec n) : (a ++ b).toNat = a.toNat * 2 ^ n + b.toNat := by
  rw [BitVec.toNat_append, ← Nat.shiftLeft_add_eq_or_of_lt b.isLt, Nat.shiftLeft_eq]

theorem regBits_toNat (x : Reg) : (regBits x).toNat = x.val := by
  have := x.isLt
  simp [regBits]

theorem encodeNNN_toNat (op : BitVec 4) (nnn : Addr12) :
    (encodeNNN op nnn).toNat = op.toNat * 4096 + nnn.toNat :=
  append_toNat op nnn

theorem encodeXNN_toNat (op : BitVec 4) (x : Reg) (nn : Byte) :
    (encodeXNN op x nn).toNat = op.toNat * 4096 + x.val * 256 + nn.toNat := by
  have h : (encodeXNN op x nn).toNat = (op ++ regBits x).toNat * 2 ^ 8 + nn.toNat := append_toNat _ nn
  rw [h, append_toNat, regBits_toNat]
  omega

theorem encodeXYN_toNat (op : BitVec 4) (x y : Reg) (n : BitVec 4) :
    (encodeXYN op x y n).toNat = op.toNat * 4096 + x.val * 256 + y.val * 16 + n.toNat := by
  have h : (encodeXYN op x y n).toNat = (op ++ regBits x ++ regBits y).toNat * 2 ^ 4 + n.toNat := append_toNat _ n
  rw [h, append_toNat, append_toNat, regBits_toNat, regBits_toNat]
  omega

/-- A fetched word is big-endian: the byte at the lower address is the more significant (R51). -/
theorem wordOfBytes_toNat (hi lo : Byte) : (wordOfBytes hi lo).toNat = hi.toNat * 256 + lo.toNat :=
  append_toNat hi lo

/-! ### Fields of an encoded word -/

theorem fields_encodeNNN (op : BitVec 4) (nnn : Addr12) :
    opcodeOf (encodeNNN op nnn) = op ∧ fieldNNN (encodeNNN op nnn) = nnn := by
  have h := encodeNNN_toNat op nnn
  have := op.isLt
  have := nnn.isLt
  refine ⟨BitVec.eq_of_toNat_eq ?_, BitVec.eq_of_toNat_eq ?_⟩
  · rw [opcodeOf_toNat]; omega
  · rw [fieldNNN_toNat]; omega

theorem fields_encodeXNN (op : BitVec 4) (x : Reg) (nn : Byte) :
    opcodeOf (encodeXNN op x nn) = op ∧ fieldX (encodeXNN op x nn) = x ∧ fieldNN (encodeXNN op x nn) = nn := by
  have h := encodeXNN_toNat op x nn
  have := op.isLt
  have := nn.isLt
  refine ⟨BitVec.eq_of_toNat_eq ?_, Fin.ext ?_, BitVec.eq_of_toNat_eq ?_⟩
  · rw [opcodeOf_toNat]; omega
  · rw [fieldX_val]; omega
  · rw [fieldNN_toNat]; omega

theorem fields_encodeXYN (op : BitVec 4) (x y : Reg) (n : BitVec 4) :
    opcodeOf (encodeXYN op x y n) = op ∧ fieldX (encodeXYN op x y n) = x ∧ fieldY (encodeXYN op x y n) = y ∧
      fieldN (encodeXYN op x y n) = n.toNat := by
  have h := encodeXYN_toNat op x y n
  have := op.isLt
  have := n.isLt
  refine ⟨BitVec.eq_of_toNat_eq ?_, Fin.ext ?_, Fin.ext ?_, ?_⟩
  · rw [opcodeOf_toNat]; omega
  · rw [fieldX_val]; omega
  · rw [fieldY_val]; omega
  · rw [fieldN_eq]; omega

end Sys2Proof
end

