-- ==== Sys2Proof/Laws/Sprite.lean ====
section
/-! SUPPORT. Which pixels a sprite toggles, in which order, and what drawing them does to the screen
(spec/41_display.md R107 to R110). -/

namespace Sys2Proof.Machine

theorem mem_rowPixels {b : Byte} {ox : Nat} {y : Row} {k : Nat} {p : Pixel} :
    p ∈ rowPixels b ox y k ↔ p.2 = y ∧ ∃ m < k, b.getLsbD m = true ∧ p.1.val = ox + (7 - m) := by
  induction k with
  | zero => simp [rowPixels]
  | succ k ih =>
    have hstep : p ∈ rowPixels b ox y (k + 1) ↔
        (p.2 = y ∧ b.getLsbD k = true ∧ p.1.val = ox + (7 - k)) ∨ p ∈ rowPixels b ox y k := by
      obtain ⟨px, py⟩ := p
      simp only [rowPixels]
      split
      · split
        · simp_all [Fin.ext_iff, Prod.ext_iff, and_comm]
        · simp_all
      · have := px.isLt
        constructor
        · exact Or.inr
        · rintro (⟨-, -, h⟩ | h)
          · omega
          · exact h
    rw [hstep, ih]
    constructor
    · rintro (⟨h, hb, hx⟩ | ⟨h, m, hm, hb⟩)
      · exact ⟨h, k, by omega, hb, hx⟩
      · exact ⟨h, m, by omega, hb⟩
    · rintro ⟨h, m, hm, hb⟩
      by_cases hk : m = k
      · subst hk; exact .inl ⟨h, hb⟩
      · exact .inr ⟨h, m, by omega, hb⟩

/-- A pixel is toggled iff the sprite's bit for its place is 1 (R107, R109). -/
theorem mem_spritePixels {ox oy : Nat} {bytes : List Byte} {p : Pixel} :
    p ∈ spritePixels ox oy bytes ↔
      ∃ r, ∃ h : r < bytes.length, p.2.val = oy + r ∧
        ∃ m < 8, bytes[r].getLsbD m = true ∧ p.1.val = ox + (7 - m) := by
  induction bytes generalizing oy with
  | nil => simp [spritePixels]
  | cons b rest ih =>
    have hy := p.2.isLt
    constructor
    · intro hp
      simp only [spritePixels] at hp
      split at hp
      · rcases List.mem_append.mp hp with hp | hp
        · obtain ⟨h2, hm⟩ := mem_rowPixels.mp hp
          exact ⟨0, by simp, by simp [h2], by simpa using hm⟩
        · obtain ⟨r, hr, h2, hm⟩ := ih.mp hp
          exact ⟨r + 1, by simpa using hr, by omega, by simpa using hm⟩
      · simp at hp
    · rintro ⟨r, hr, h2, hm⟩
      simp only [spritePixels]
      rw [dif_pos (by omega)]
      apply List.mem_append.mpr
      cases r with
      | zero =>
        exact .inl (mem_rowPixels.mpr ⟨Fin.ext (by simpa using h2), by simpa using hm⟩)
      | succ r =>
        exact .inr (ih.mpr ⟨r, by simpa using hr, by omega, by simpa using hm⟩)

theorem rowPixels_ordered (b : Byte) (ox : Nat) (y : Row) (k : Nat) (hk : k ≤ 8) :
    (rowPixels b ox y k).Pairwise drawnBefore := by
  induction k with
  | zero => simp [rowPixels]
  | succ k ih =>
    simp only [rowPixels]
    split
    · split
      · refine List.pairwise_cons.mpr ⟨fun q hq => ?_, ih (by omega)⟩
        obtain ⟨h2, m, hm, -, h1⟩ := mem_rowPixels.mp hq
        exact .inr ⟨h2.symm, by rw [Fin.lt_def]; simp only; omega⟩
      · exact ih (by omega)
    · exact ih (by omega)

/-- A sprite's pixels come row by row and left to right, none twice (R108). -/
theorem spritePixels_ordered (ox oy : Nat) (bytes : List Byte) :
    (spritePixels ox oy bytes).Pairwise drawnBefore := by
  induction bytes generalizing oy with
  | nil => simp [spritePixels]
  | cons b rest ih =>
    simp only [spritePixels]
    split
    · refine List.pairwise_append.mpr ⟨rowPixels_ordered _ _ _ _ (by omega), ih _, ?_⟩
      intro p hp q hq
      obtain ⟨hp2, -⟩ := mem_rowPixels.mp hp
      obtain ⟨r, -, hq2, -⟩ := mem_spritePixels.mp hq
      exact .inl (by rw [Fin.lt_def, hp2, hq2]; simp only; omega)
    · exact .nil

theorem spritePixels_nodup (ox oy : Nat) (bytes : List Byte) : (spritePixels ox oy bytes).Nodup := by
  refine (spritePixels_ordered ox oy bytes).imp ?_
  rintro p q (h | ⟨-, h⟩) rfl <;> exact lt_irrefl _ h

/-- Drawing pixels without repeats toggles exactly those (R110). -/
theorem pixel_drawPixels (s : State) (c : Bool) {ps : List Pixel} (h : ps.Nodup) (q : Pixel) :
    (s.drawPixels c ps).1.pixel q = if q ∈ ps then !s.pixel q else s.pixel q := by
  induction ps generalizing s c with
  | nil => simp [State.drawPixels]
  | cons p rest ih =>
    obtain ⟨hp, hrest⟩ := List.nodup_cons.mp h
    rw [State.drawPixels, ih _ _ hrest, pixel_togglePixel]
    by_cases hq : q = p
    · subst hq; simp [hp]
    · simp [hq, Ne.symm hq]

/-- The collision flag of a drawing without repeats: one of the pixels was on before it (R110). -/
theorem collided_drawPixels (s : State) (c : Bool) {ps : List Pixel} (h : ps.Nodup) :
    (s.drawPixels c ps).2 = (c || ps.any s.pixel) := by
  induction ps generalizing s c with
  | nil => simp [State.drawPixels]
  | cons p rest ih =>
    obtain ⟨hp, hrest⟩ := List.nodup_cons.mp h
    rw [State.drawPixels, ih _ _ hrest, List.any_cons, Bool.or_assoc]
    congr 2
    rw [Bool.eq_iff_iff, List.any_eq_true, List.any_eq_true]
    refine exists_congr fun q => and_congr_right fun hq => ?_
    rw [pixel_togglePixel, if_neg]
    rintro rfl
    exact hp hq

end Sys2Proof.Machine
end

