-- ==== Sys2Proof/Laws/Exec.lean ====
section
/-! SUPPORT. What the execution of any instruction can be, said once: a fault entry, or the instruction's own effect, which leaves
the halt state, the keypad, the parameters, the quit request and the schedule alone. -/

namespace Sys2Proof.Machine

/-- What every instruction's own effect leaves alone. -/
structure KeepsControl (s t : State) : Prop where
  halted : t.halted = s.halted
  keys : t.keys = s.keys
  cfg : t.cfg = s.cfg
  quit : t.quit = s.quit
  schedule : t.schedule = s.schedule

theorem skipIf_keepsControl (s : State) (c : Bool) : KeepsControl s (s.skipIf c) := by
  rw [skipIf_eq]
  constructor <;> rfl

theorem drawPixels_keepsControl (s : State) (c : Bool) (ps : List Pixel) : KeepsControl s (s.drawPixels c ps).1 := by
  rw [drawPixels_eq_setScreen]
  constructor <;> rfl

/-- An instruction whose meaning ends in `raise` raises that fault and writes nothing (R214). -/
theorem raises_of_exec_eq_raise {i : Instr} {s : State} {cause : FaultCause} {addr : Option Nat} {key : Option Byte}
    (h : exec i s = raise s i cause addr key) : Raises i s cause addr key := h

/-- An instruction in the state `s` either takes a fault of its own, or has its own effect (R96, R214). It answers a next state in
both cases. -/
theorem exec_cases (i : Instr) (s : State) :
    (∃ cause addr key, exec i s = .next (s.takeFault ⟨cause, s.pc - 2, some (encode i), addr, key⟩)) ∨
    (∃ t, exec i s = .next t ∧ KeepsControl s t) := by
  cases i with
  | ret =>
    simp only [exec, execRet]
    split
    · exact .inl ⟨_, _, _, rfl⟩
    · exact .inr ⟨_, rfl, by constructor <;> rfl⟩
  | call nnn =>
    simp only [exec, execCall]
    split
    · exact .inl ⟨_, _, _, rfl⟩
    · exact .inr ⟨_, rfl, by constructor <;> rfl⟩
  | drw x y n =>
    simp only [exec, execDrw]
    split
    · exact .inl ⟨_, _, _, rfl⟩
    · refine .inr ⟨_, rfl, ?_⟩
      have h := drawPixels_keepsControl s false (spritePixels (originX (s.getV x)) (originY (s.getV y)) ‹_›)
      exact ⟨h.halted, h.keys, h.cfg, h.quit, h.schedule⟩
  | addIVx x =>
    right
    simp only [exec, execAddIVx]
    split
    · split
      · exact ⟨_, rfl, by constructor <;> rfl⟩
      · exact ⟨_, rfl, by constructor <;> rfl⟩
    · exact ⟨_, rfl, by constructor <;> rfl⟩
  | ldBVx x =>
    simp only [exec, execLdBVx]
    split
    · exact .inl ⟨_, _, _, rfl⟩
    · exact .inr ⟨_, rfl, by constructor <;> rfl⟩
  | ldMiVx x =>
    simp only [exec, execLdMiVx]
    split
    · exact .inl ⟨_, _, _, rfl⟩
    · exact .inr ⟨_, rfl, by constructor <;> rfl⟩
  | ldVxMi x =>
    simp only [exec, execLdVxMi]
    split
    · exact .inl ⟨_, _, _, rfl⟩
    · exact .inr ⟨_, rfl, by constructor <;> rfl⟩
  | skp x =>
    simp only [exec, execSkp]
    split
    · exact .inl ⟨_, _, _, rfl⟩
    · exact .inr ⟨_, rfl, skipIf_keepsControl s _⟩
  | sknp x =>
    simp only [exec, execSknp]
    split
    · exact .inl ⟨_, _, _, rfl⟩
    · exact .inr ⟨_, rfl, skipIf_keepsControl s _⟩
  | ldVxK x =>
    right
    simp only [exec, execLdVxK]
    split
    · exact ⟨_, rfl, by constructor <;> rfl⟩
    · exact ⟨_, rfl, by constructor <;> rfl⟩
  | seVxNn x nn => exact .inr ⟨_, rfl, skipIf_keepsControl s _⟩
  | sneVxNn x nn => exact .inr ⟨_, rfl, skipIf_keepsControl s _⟩
  | seVxVy x y => exact .inr ⟨_, rfl, skipIf_keepsControl s _⟩
  | sneVxVy x y => exact .inr ⟨_, rfl, skipIf_keepsControl s _⟩
  | _ => exact .inr ⟨_, rfl, by constructor <;> rfl⟩

end Sys2Proof.Machine
end

