-- ==== Sys2Proof/Tests/Slice0.lean ====
section
/-! SUPPORT. The model's own tests. Expected values are those of spec/95_test_vectors.md (a vector's number is in the comment) or are
worked out by hand from the rule named. After them, for every obligation with hypotheses, a concrete case that meets them. -/

namespace Sys2Proof.Machine.Tests

/-! ### Helpers -/

/-- The outcome is a next state with the property. -/
def onNext (o : Result) (p : State → Bool) : Bool :=
  match o with
  | .next t => p t
  | _ => false

/-- The state with these values in registers. -/
def regs (s : State) (l : List (Reg × Byte)) : State := l.foldl (fun s (x, b) => s.setV x b) s

/-- The state with these bytes stored from an address on. -/
def bytes (s : State) (a : Nat) (l : List Byte) : State := s.setMem (s.mem.setBytes a l)

/-- The reset state with these pixels on. -/
def lit (ps : List Pixel) : State := (State.reset.drawPixels false ps).1

/-- The keypad with these keys down. -/
def down (ks : List Key) : Vector Bool 16 := Vector.ofFn fun k => ks.contains k

/-- One step that runs the word at `pc` goes to a state with the property. -/
def runs (w : Word) (s : State) (p : State → Bool) : Bool := onNext (step (s.withFetchWord 16 w.toNat)) p

/-- One step that runs the word halts with this record. -/
def faults (w : Word) (s : State) (r : FaultRecord) : Bool := runs w s fun t => t.halted == .faulted r

/-- Every word decodes to the instruction beside it, through the interface the opcode table uses. -/
def decodes (l : List (Word × Instr)) : Bool := l.all fun (w, i) => decodeTableWord 16 w.toNat == some i

/-- The default parameters with every toggle OLD. -/
def oldParams : Params :=
  { defaultParams with shift := .old, jump := .old, indexOverflow := .old, indexIncrement := .old }

def oldReset : State := { State.reset with cfg := oldParams }

/-- The reset state with a bounded stack and these entries. -/
def limited (n : Nat) (l : List Word) : State :=
  { State.reset with cfg := { defaultParams with stackLimit := some n }, stack := l }

/-! ### Well-formedness: the one check, on both sides of its bound (R73) -/

theorem test_wellFormed_height_16_refused : Instr.wellFormed (.drw 0 0 16) = false := by decide
theorem test_wellFormed_height_15 : Instr.wellFormed (.drw 0 0 15) = true := by decide

/-! ### Decoding: words written out from the patterns and fields of R72 and R86 -/

theorem test_decode_family_0 : decodes [(0x00E0, .cls), (0x00EE, .ret)] = true := by decide
theorem test_decode_addresses :
    decodes [(0x1FED, .jp 0xFED), (0x2310, .call 0x310), (0xA123, .ldINnn 0x123), (0xB456, .jpOff 0x456)] = true := by
  decide
theorem test_decode_immediates :
    decodes [(0x3A42, .seVxNn 10 0x42), (0x4B43, .sneVxNn 11 0x43), (0x6C9C, .ldVxNn 12 0x9C), (0x7D01, .addVxNn 13 0x01),
      (0xCE0F, .rnd 14 0x0F)] = true := by decide
theorem test_decode_register_pairs :
    decodes [(0x5120, .seVxVy 1 2), (0x9120, .sneVxVy 1 2), (0x8120, .ldVxVy 1 2), (0x8121, .or 1 2), (0x8122, .and 1 2),
      (0x8123, .xor 1 2), (0x8124, .addVxVy 1 2), (0x8125, .sub 1 2), (0x8127, .subn 1 2), (0x8126, .shr 1 2),
      (0x812E, .shl 1 2)] = true := by decide
theorem test_decode_sprite : decodes [(0xD123, .drw 1 2 3), (0xDEF0, .drw 14 15 0)] = true := by decide
theorem test_decode_family_E : decodes [(0xE39E, .skp 3), (0xE4A1, .sknp 4)] = true := by decide
theorem test_decode_family_F :
    decodes [(0xF107, .ldVxDt 1), (0xF20A, .ldVxK 2), (0xF315, .ldDtVx 3), (0xF418, .ldStVx 4), (0xF51E, .addIVx 5),
      (0xF629, .ldFVx 6), (0xF733, .ldBVx 7), (0xF855, .ldMiVx 8), (0xF965, .ldVxMi 9)] = true := by decide
theorem test_decode_rejects :
    ([0x0000, 0x0123, 0x00E1, 0x5121, 0x8128, 0x812F, 0x9121, 0xE000, 0xF100, 0xF1FF].all fun w =>
      decodeTableWord 16 w == none) = true := by decide
theorem test_decode_takes_two_bytes : decodeBytes [0xD1, 0x23, 0x60] = .ok (.drw 1 2 3, [0x60]) := by decide
theorem test_decode_truncated : decodeBytes [0xD1] = .error .truncated := by decide
theorem test_encode_big_endian : bytesOfWord (encode (.drw 1 2 3)) = [0xD1, 0x23] := by decide

/-! ### Fetch and decode -/

-- V1
theorem test_fetch_last_word :
    runs 0x6001 (State.reset.setPc 0xFFE) (fun t => t.getV 0 == 1 && t.pc == 0x1000 && t.halted == .running) = true := by
  decide
-- V2
theorem test_fetch_straddles :
    onNext (step (State.reset.setPc 0xFFF)) (fun t => t.halted == .faulted ⟨.outOfBounds, 0xFFF, none, some 0x1000, none⟩)
      = true := by decide
-- V4
theorem test_fetch_odd : runs 0x6001 (State.reset.setPc 0x201) (fun t => t.getV 0 == 1 && t.pc == 0x203) = true := by decide
-- V5, V9
theorem test_unimplemented :
    (faults 0x0123 .reset ⟨.unimplementedInstruction, 0x200, some 0x0123, none, none⟩ &&
     faults 0xF100 .reset ⟨.unimplementedInstruction, 0x200, some 0xF100, none, none⟩) = true := by decide

/-! ### Display -/

-- V10
theorem test_cls :
    runs 0x00E0 (lit [(0, 0), (63, 31)]) (fun t =>
      !t.pixel (0, 0) && !t.pixel (63, 31) && t.events == [.clear] && t.pc == 0x202) = true := by decide
-- V12, V19
theorem test_drw_collision_and_vf_origin :
    (runs 0xD011 (bytes ((lit [(1, 0)]).setI 0x300) 0x300 [0xC0]) (fun t =>
        t.pixel (0, 0) && !t.pixel (1, 0) && t.getV 15 == 1 && t.events == [.changed [(0, 0), (1, 0)]]) &&
     runs 0xDF01 (bytes ((regs .reset [(15, 5)]).setI 0x300) 0x300 [0x80]) (fun t => t.pixel (5, 0) && t.getV 15 == 0))
      = true := by decide
-- V15, V17, V20
theorem test_drw_clips_wraps_and_faults :
    (runs 0xD013 (bytes ((regs .reset [(0, 60), (1, 30)]).setI 0x300) 0x300 [0xFF, 0xFF, 0xFF]) (fun t =>
        t.events == [.changed [(60, 30), (61, 30), (62, 30), (63, 30), (60, 31), (61, 31), (62, 31), (63, 31)]]) &&
     faults 0xD013 (State.reset.setI 0xFFE) ⟨.outOfBounds, 0x200, some 0xD013, some 0x1000, none⟩ &&
     runs 0xD011 (bytes ((regs .reset [(0, 0x3E), (1, 0x2F)]).setI 0x300) 0x300 [0x80]) (fun t => t.pixel (62, 15)))
      = true := by decide

/-! ### Control transfer -/

-- V21, V22
theorem test_ret :
    (runs 0x00EE ((State.reset.setPc 0x310).setStack [0x20A]) (fun t => t.pc == 0x20A && t.stack == []) &&
     faults 0x00EE .reset ⟨.stackUnderflow, 0x200, some 0x00EE, none, none⟩) = true := by decide
-- V23
theorem test_jp : runs 0x1204 (State.reset.setPc 0x20A) (fun t => t.pc == 0x204) = true := by decide
-- V24
theorem test_call : runs 0x2310 (State.reset.setPc 0x208) (fun t => t.pc == 0x310 && t.stack == [0x20A]) = true := by decide
-- V25
theorem test_call_full :
    faults 0x2310 ((limited 2 [0x202, 0x202]).setPc 0x208) ⟨.stackOverflow, 0x208, some 0x2310, none, none⟩ = true := by decide
-- V28, V29
theorem test_se_immediate :
    (runs 0x3342 (regs .reset [(3, 0x42)]) (fun t => t.pc == 0x204) &&
     runs 0x3343 (regs .reset [(3, 0x42)]) (fun t => t.pc == 0x202)) = true := by decide
-- V31, and by hand from R129
theorem test_sne_immediate :
    (runs 0x4300 (regs .reset [(3, 0x42)]) (fun t => t.pc == 0x204) &&
     runs 0x4342 (regs .reset [(3, 0x42)]) (fun t => t.pc == 0x202)) = true := by decide
-- V32, and by hand from R130
theorem test_se_registers :
    (runs 0x5120 (regs .reset [(1, 7), (2, 7)]) (fun t => t.pc == 0x204) &&
     runs 0x5120 (regs .reset [(1, 7)]) (fun t => t.pc == 0x202)) = true := by decide
-- V34, V35
theorem test_sne_registers :
    (runs 0x9120 (regs .reset [(1, 7), (2, 8)]) (fun t => t.pc == 0x204) && runs 0x9110 .reset (fun t => t.pc == 0x202))
      = true := by decide
-- V37, V38
theorem test_jp_off :
    (runs 0xB300 (regs oldReset [(0, 0x10), (3, 0x20)]) (fun t => t.pc == 0x310) &&
     runs 0xB300 (regs .reset [(0, 0x10), (3, 0x20)]) (fun t => t.pc == 0x320)) = true := by decide
-- V39
theorem test_jp_off_past_memory : runs 0xBFFF (regs oldReset [(0, 0xFF)]) (fun t => t.pc == 0x10FE) = true := by decide

/-! ### ALU -/

-- V41
theorem test_ld_immediate : runs 0x6A9C .reset (fun t => t.getV 10 == 0x9C && t.pc == 0x202) = true := by decide
-- V40
theorem test_add_immediate :
    runs 0x7101 (regs .reset [(1, 0xFF), (15, 0x5A)]) (fun t => t.getV 1 == 0 && t.getV 15 == 0x5A) = true := by decide
-- V43
theorem test_ld_register : runs 0x8120 (regs .reset [(2, 0x33)]) (fun t => t.getV 1 == 0x33 && t.getV 2 == 0x33) = true := by
  decide
-- V44
theorem test_or :
    runs 0x8121 (regs .reset [(1, 0x0F), (2, 0xF0), (15, 0x77)]) (fun t => t.getV 1 == 0xFF && t.getV 15 == 0x77) = true := by
  decide
-- V45
theorem test_and : runs 0x8122 (regs .reset [(1, 0x3C), (2, 0x0F)]) (fun t => t.getV 1 == 0x0C) = true := by decide
-- V46, and by hand from R147
theorem test_xor :
    (runs 0x8113 (regs .reset [(1, 0x3C)]) (fun t => t.getV 1 == 0) &&
     runs 0x8123 (regs .reset [(1, 0x3C), (2, 0x0F)]) (fun t => t.getV 1 == 0x33)) = true := by decide
-- V47, V48
theorem test_add_registers :
    (runs 0x8124 (regs .reset [(1, 0xFF), (2, 1)]) (fun t => t.getV 1 == 0 && t.getV 15 == 1) &&
     runs 0x8124 (regs .reset [(1, 0xFE), (2, 1), (15, 1)]) (fun t => t.getV 1 == 0xFF && t.getV 15 == 0)) = true := by decide
-- V49, V50
theorem test_add_registers_vf :
    (runs 0x8F14 (regs .reset [(15, 0xFF), (1, 2)]) (fun t => t.getV 15 == 1) &&
     runs 0x81F4 (regs .reset [(15, 1), (1, 0x10)]) (fun t => t.getV 1 == 0x11 && t.getV 15 == 0)) = true := by decide
-- V51, V52, V53
theorem test_sub :
    (runs 0x8125 (regs .reset [(1, 5), (2, 7)]) (fun t => t.getV 1 == 0xFE && t.getV 15 == 0) &&
     runs 0x8125 (regs .reset [(1, 7), (2, 7)]) (fun t => t.getV 1 == 0 && t.getV 15 == 1) &&
     runs 0x8F15 (regs .reset [(15, 3), (1, 5)]) (fun t => t.getV 15 == 0)) = true := by decide
-- V54, V55
theorem test_subn :
    (runs 0x8127 (regs .reset [(1, 5), (2, 7)]) (fun t => t.getV 1 == 2 && t.getV 15 == 1) &&
     runs 0x8127 (regs .reset [(1, 7), (2, 5)]) (fun t => t.getV 1 == 0xFE && t.getV 15 == 0)) = true := by decide
-- V56, V57
theorem test_shr :
    (runs 0x8126 (regs .reset [(1, 5), (2, 8)]) (fun t => t.getV 1 == 2 && t.getV 15 == 1) &&
     runs 0x8126 (regs oldReset [(1, 5), (2, 8)]) (fun t => t.getV 1 == 4 && t.getV 15 == 1)) = true := by decide
-- V58, V59
theorem test_shr_flag :
    (runs 0x8126 (regs oldReset [(1, 4), (2, 3)]) (fun t => t.getV 1 == 1 && t.getV 15 == 0) &&
     runs 0x8F06 (regs .reset [(15, 3)]) (fun t => t.getV 15 == 1)) = true := by decide
-- V60, V62
theorem test_shl :
    (runs 0x810E (regs .reset [(1, 0x81)]) (fun t => t.getV 1 == 2 && t.getV 15 == 1) &&
     runs 0x812E (regs oldReset [(1, 1), (2, 0xC0)]) (fun t => t.getV 1 == 0x80 && t.getV 15 == 1)) = true := by decide
-- V61, V63
theorem test_shl_flag :
    (runs 0x810E (regs .reset [(1, 0x80)]) (fun t => t.getV 1 == 0 && t.getV 15 == 0) &&
     runs 0x8F0E (regs .reset [(15, 0x81)]) (fun t => t.getV 15 == 1)) = true := by decide
-- V64: the drawn byte is 0xA7
theorem test_rnd_masks : (State.reset.randomAnd 0xA7 3 0x0F).getV 3 = 0x07 := by decide
-- by hand from R163, R165: the flag and everything but V3 and the count of draws stay
theorem test_rnd_runs :
    runs 0xC30F (regs .reset [(15, 0x55)]) (fun t => t.getV 15 == 0x55 && t.pc == 0x202 && t.draws == 1) = true := by decide

/-! ### Index register and memory -/

-- V66
theorem test_ld_index : runs 0xA300 .reset (fun t => t.i == 0x300 && t.pc == 0x202) = true := by decide
-- S2, V67
theorem test_add_index :
    (runs 0xF11E ((regs .reset [(1, 2)]).setI 0xFFF) (fun t => t.i == 1 && t.getV 15 == 1) &&
     runs 0xF11E ((regs oldReset [(1, 2), (15, 0x55)]).setI 0xFFF) (fun t => t.i == 1 && t.getV 15 == 0x55)) = true := by decide
-- V68, V69, V70
theorem test_add_index_flag :
    (runs 0xF11E ((regs .reset [(1, 2), (15, 0x55)]).setI 0x100) (fun t => t.i == 0x102 && t.getV 15 == 0x55) &&
     runs 0xF11E ((regs .reset [(1, 1), (15, 0x55)]).setI 0xFFE) (fun t => t.i == 0xFFF && t.getV 15 == 0x55) &&
     runs 0xFF1E ((regs .reset [(15, 1)]).setI 0xFFF) (fun t => t.i == 0 && t.getV 15 == 1)) = true := by decide
-- V71, V72
theorem test_ld_font :
    (runs 0xF429 (regs .reset [(4, 0x0A)]) (fun t => t.i == 0x082) &&
     runs 0xF429 (regs .reset [(4, 0x1F)]) (fun t => t.i == 0x09B)) = true := by decide
-- S1, V74
theorem test_bcd :
    (runs 0xF133 ((regs .reset [(1, 0xFF)]).setI 0x300) (fun t => t.mem.bytesAt 0x300 3 == [2, 5, 5] && t.i == 0x300) &&
     runs 0xF133 ((regs .reset [(1, 0x7B)]).setI 0xFFD) (fun t => t.mem.bytesAt 0xFFD 3 == [1, 2, 3])) = true := by decide
-- V75
theorem test_bcd_outside :
    faults 0xF133 (State.reset.setI 0xFFE) ⟨.outOfBounds, 0x200, some 0xF133, some 0x1000, none⟩ = true := by decide
-- V76, V77, V78
theorem test_store_registers :
    (runs 0xF155 ((regs .reset [(0, 1), (1, 2)]).setI 0x400) (fun t => t.mem.bytesAt 0x400 3 == [1, 2, 0] && t.i == 0x400) &&
     runs 0xF155 ((regs oldReset [(0, 1), (1, 2)]).setI 0x400) (fun t => t.mem.bytesAt 0x400 3 == [1, 2, 0] && t.i == 0x402) &&
     runs 0xF155 ((regs oldReset [(0, 1), (1, 2)]).setI 0xFFE) (fun t => t.mem.bytesAt 0xFFE 2 == [1, 2] && t.i == 0))
      = true := by decide
-- V79
theorem test_store_registers_outside :
    runs 0xF255 ((regs .reset [(0, 1)]).setI 0xFFE) (fun t => t.mem.byteAt 0xFFE == 0 &&
      t.halted == .faulted ⟨.outOfBounds, 0x200, some 0xF255, some 0x1000, none⟩) = true := by decide
-- V80
theorem test_load_registers :
    runs 0xF265 ((bytes (regs oldReset [(3, 9)]) 0x300 [2, 5, 5]).setI 0x300) (fun t =>
      t.getV 0 == 2 && t.getV 1 == 5 && t.getV 2 == 5 && t.getV 3 == 9 && t.i == 0x303) = true := by decide
-- V81
theorem test_load_all_registers :
    runs 0xFF65 ((bytes (regs .reset [(14, 9)]) 0x30F [0xAB]).setI 0x300) (fun t => t.getV 14 == 0 && t.getV 15 == 0xAB) = true := by
  decide

/-! ### Keypad and timers -/

-- V82, V83
theorem test_skp :
    (runs 0xE59E ((regs .reset [(5, 0x0C)]).refreshKeys (down [12])) (fun t => t.pc == 0x204) &&
     runs 0xE59E (regs .reset [(5, 0x0C)]) (fun t => t.pc == 0x202)) = true := by decide
-- V85, and by hand from R194
theorem test_key_out_of_range :
    (faults 0xE59E (regs .reset [(5, 0x10)]) ⟨.keyIndexOutOfRange, 0x200, some 0xE59E, none, some 0x10⟩ &&
     faults 0xE5A1 (regs .reset [(5, 0x10)]) ⟨.keyIndexOutOfRange, 0x200, some 0xE5A1, none, some 0x10⟩) = true := by decide
-- V84, and by hand from R192
theorem test_sknp :
    (runs 0xE5A1 (regs .reset [(5, 0x0C)]) (fun t => t.pc == 0x204) &&
     runs 0xE5A1 ((regs .reset [(5, 0x0C)]).refreshKeys (down [12])) (fun t => t.pc == 0x202)) = true := by decide
-- V86
theorem test_ld_from_timer : runs 0xF307 (State.reset.setDt 0x3C) (fun t => t.getV 3 == 0x3C && t.dt == 0x3C) = true := by decide
-- V87, V88
theorem test_key_wait :
    (runs 0xF30A ((regs .reset [(3, 9)]).setPc 0x208) (fun t => t.pc == 0x208 && t.getV 3 == 9) &&
     runs 0xF30A ((State.reset.setPc 0x208).refreshKeys (down [5, 9])) (fun t => t.getV 3 == 5 && t.pc == 0x20A)) = true := by
  decide
-- V89
theorem test_ld_delay_timer : runs 0xF015 (regs .reset [(0, 0x3C)]) (fun t => t.dt == 0x3C && t.st == 0) = true := by decide
-- V90
theorem test_ld_sound_timer : runs 0xF118 (regs .reset [(1, 2)]) (fun t => t.st == 2 && t.dt == 0) = true := by decide
-- V91, V93
theorem test_tick :
    (onNext (step { State.reset with dt := 1, schedule := [.tick] }) (fun t => t.dt == 0 && t.st == 0) &&
     onNext (step { State.reset with dt := 5, schedule := [.tick], halted := .faulted ⟨.stackUnderflow, 0x200, none, none, none⟩ })
       (fun t => t.dt == 4)) = true := by decide

-- by hand from R226: the oldest event goes, the next one stays
theorem test_take_event :
    onNext (step { State.reset with events := [.clear, .changed [(1, 2)]], schedule := [.takeEvent] })
      (fun t => t.events == [.changed [(1, 2)]] && t.pc == 0x200) = true := by decide

/-! ### Reset and load -/

-- R240: a boot with the default parameters leaves memory as reset has it
theorem test_boot_memory_is_reset_memory : bootMemory defaultParams = State.reset.mem := by decide +kernel
-- V97
theorem test_reset_font : State.reset.mem.bytesAt 0x09B 6 = [0xF0, 0x80, 0xF0, 0x80, 0x80, 0x00] := by decide
-- V94, V95
theorem test_rom_sizes :
    (match Memory.empty.loadRom (List.replicate 3585 1) with | .error e => e == .romTooLarge | .ok _ => false) = true := by
  decide +kernel
/-- a ROM's first byte is the high byte of the first word (R51, R242) -/
theorem test_boot_runs_rom :
    (match State.boot defaultParams (some [0x60, 0x01]) with
      | .ok s => onNext (step s) (fun t => t.getV 0 == 1 && t.pc == 0x202)
      | .error _ => false) = true := by decide +kernel

/-! ### Witnesses: for every obligation with hypotheses, a case that meets them -/

/-- A run of this state is at the core's turn, and the core can step. -/
theorem coreReady_reset : State.reset.CoreReady := ⟨rfl, rfl, rfl⟩

/-- The state of a core halted by a fault. -/
def haltedState : State :=
  { State.reset with halted := .faulted ⟨.unimplementedInstruction, 0x200, some 0, none, none⟩ }

/-- The word `w` at the address `a`, and `pc` there. -/
def atWord (a w : Word) : State := (bytes .reset a.toNat (bytesOfWord w)).setPc a

/-- Parameters with the font as high as it may lie, and a stack of depth 1. -/
def edgeParams : Params := { oldParams with fontBase := 0x1B0, stackLimit := some 1 }

theorem witness_DecodeInvertsEncode : Instr.wellFormed (.drw 15 15 15) = true ∧ Instr.wellFormed .cls = true := by decide

theorem witness_EncodeInvertsDecode : decode 0xDFFF = .ok (.drw 15 15 15) ∧ decode 0x00EE = .ok .ret := by decide

theorem witness_DecodeFollowsOpcodeMap :
    decode 0xF065 = .ok (.ldVxMi 0) ∧ (∀ r ∈ opcodeRows, r.matchesWord 0xF066 = false) ∧
    (∃ r ∈ opcodeRows, r.matchesWord 0xF065 = true) := by decide

theorem witness_StepRunsDecodedInstruction :
    (atWord 0xFFE 0x6001).CoreReady ∧ (atWord 0xFFE 0x6001).pc.toNat + 1 < 0x1000 ∧
    decode (wordOfBytes ((atWord 0xFFE 0x6001).mem.byteAt 0xFFE) ((atWord 0xFFE 0x6001).mem.byteAt 0xFFF)) =
      .ok (.ldVxNn 0 1) := ⟨⟨rfl, rfl, rfl⟩, by decide, by decide⟩

theorem witness_FetchBeyondMemoryFaults :
    ((State.reset.setPc 0xFFF).CoreReady ∧ 0x1000 ≤ (State.reset.setPc 0xFFF).pc.toNat + 1) ∧
    ((State.reset.setPc 0xFFFF).CoreReady ∧ 0x1000 ≤ (State.reset.setPc 0xFFFF).pc.toNat + 1) :=
  ⟨⟨⟨rfl, rfl, rfl⟩, by decide⟩, ⟨rfl, rfl, rfl⟩, by decide⟩

theorem witness_UnmatchedWordFaults :
    (State.reset.setPc 0xFFE).CoreReady ∧ (State.reset.setPc 0xFFE).pc.toNat + 1 < 0x1000 ∧
    ∀ r ∈ opcodeRows, r.matchesWord
      (wordOfBytes ((State.reset.setPc 0xFFE).mem.byteAt 0xFFE) ((State.reset.setPc 0xFFE).mem.byteAt 0xFFF)) = false :=
  ⟨⟨rfl, rfl, rfl⟩, by decide, by decide⟩

theorem witness_FaultsArePrecise :
    (∃ t r, State.reset.CoreReady ∧ step .reset = .next t ∧ t.halted = .faulted r) ∧
    (∃ t r, (atWord 0x200 0x00EE).CoreReady ∧ step (atWord 0x200 0x00EE) = .next t ∧ t.halted = .faulted r) ∧
    (∃ t r, (State.reset.setPc 0xFFF).CoreReady ∧ step (State.reset.setPc 0xFFF) = .next t ∧ t.halted = .faulted r) :=
  ⟨⟨_, _, coreReady_reset, rfl, rfl⟩, ⟨_, _, ⟨rfl, rfl, rfl⟩, rfl, rfl⟩, ⟨_, _, ⟨rfl, rfl, rfl⟩, rfl, rfl⟩⟩

theorem witness_FaultedCoreStaysFaulted :
    (∃ r, haltedState.halted = .faulted r) ∧ haltedState.nextTurn = .core ∧ haltedState.quit = false ∧
    ∃ t, step { haltedState with schedule := [.tick] } = .next t :=
  ⟨⟨_, rfl⟩, rfl, rfl, _, rfl⟩

theorem witness_QuitEndsCoreSteps :
    State.nextTurn { State.reset with schedule := [.requestQuit] } = .requestQuit ∧
    State.nextTurn { State.reset with quit := true } = .core ∧
    ∃ t, step { State.reset with quit := true, schedule := [.tick] } = .next t := ⟨rfl, rfl, _, rfl⟩

theorem witness_TickDecrementsTimers : State.nextTurn { haltedState with schedule := [.tick] } = .tick := rfl

/-- three ticks, then the core's turn -/
def threeTicks : State := { State.reset with dt := 2, schedule := [.tick, .tick, .tick, .core] }

theorem witness_TicksCountTimersDown : threeTicks.schedule = List.replicate 3 Turn.tick ++ [Turn.core] := rfl

theorem witness_TimersRiseOnlyByTheirLoads :
    (∃ t, step (regs (atWord 0x200 0xF115) [(1, 1)]) = .next t ∧ (regs (atWord 0x200 0xF115) [(1, 1)]).dt.toNat < t.dt.toNat) ∧
    (∃ t, step (regs (atWord 0x200 0xF118) [(1, 1)]) = .next t ∧ (regs (atWord 0x200 0xF118) [(1, 1)]).st.toNat < t.st.toNat) :=
  ⟨⟨_, rfl, by decide⟩, _, rfl, by decide⟩

theorem witness_OnlyHostRefreshesKeys :
    State.nextTurn { State.reset with schedule := [.refreshKeys (down [15])] } = .refreshKeys (down [15]) ∧
    ∃ t, step { State.reset with schedule := [.refreshKeys (down [15])] } = .next t ∧ t.keys ≠ State.reset.keys :=
  ⟨rfl, _, rfl, by decide⟩

/-- an empty image always loads -/
theorem boot_empty (p : Params) : ∃ s, State.boot p (some []) = .ok s := by
  simp [State.boot, Memory.loadRom]

theorem witness_BootLoadsFont : edgeParams.wf = true ∧ ∃ s, State.boot edgeParams (some []) = .ok s :=
  ⟨by decide, boot_empty _⟩

theorem witness_BootLoadsRom :
    edgeParams.wf = true ∧ (List.replicate 3584 (1 : Byte)).length ≤ 3584 ∧ 3583 < (List.replicate 3584 (1 : Byte)).length ∧
    3584 < (List.replicate 3585 (1 : Byte)).length :=
  ⟨by decide, by rw [List.length_replicate], by rw [List.length_replicate]; decide, by rw [List.length_replicate]; decide⟩

theorem witness_BootMeetsInvariant : edgeParams.wf = true ∧ ∃ s, State.boot edgeParams (some []) = .ok s :=
  ⟨by decide, boot_empty _⟩

theorem reset_meets_inv : State.reset.Inv where
  mem_wf := by decide
  index_valid := by decide
  pc_bounded := by decide
  stack_bounded := by simp [State.reset]
  stack_depth := by intro n h; simp [State.reset, defaultParams] at h
  params_wf := by decide
  record_pc := by intro r h; simp [State.reset] at h

theorem witness_StepKeepsInvariant : State.reset.Inv ∧ ∃ t, step .reset = .next t := ⟨reset_meets_inv, _, rfl⟩

theorem witness_ReachableStatesMeetInvariant :
    defaultParams.wf = true ∧ ∃ s t, State.boot defaultParams (some []) = .ok s ∧
      core.run 2 { s with schedule := [.tick, .tick] } = .next t :=
  ⟨by decide, let ⟨s, h⟩ := boot_empty defaultParams; ⟨s, _, h, rfl⟩⟩

theorem witness_CanonicalMemoriesWithEqualBytesAreEqual :
    ((Memory.empty.setByte 0x301 2).setByte 0x300 1).wf = true ∧ (Memory.empty.setBytes 0x300 [1, 2]).wf = true ∧
    ∀ a, a < 0x1000 →
      ((Memory.empty.setByte 0x301 2).setByte 0x300 1).byteAt a = (Memory.empty.setBytes 0x300 [1, 2]).byteAt a :=
  ⟨by decide, by decide, fun _ _ => rfl⟩

/-- no row to draw; the last row at 0xFFF; the last row at 0x1000 -/
theorem witness_DrwTogglesSpritePixels :
    (0 ≤ 15 ∧ min 0 (32 - ((State.reset.setI 0xFFF).getV 1).toNat % 32) = 0) ∧
    (15 ≤ 15 ∧ (State.reset.setI 0xFF1).i.toNat + min 15 (32 - ((State.reset.setI 0xFF1).getV 1).toNat % 32) ≤ 0x1000) ∧
    (0 < min 15 (32 - ((State.reset.setI 0xFF2).getV 1).toNat % 32) ∧
      0x1000 < (State.reset.setI 0xFF2).i.toNat + min 15 (32 - ((State.reset.setI 0xFF2).getV 1).toNat % 32)) := by decide

theorem witness_DrawingTwiceRestoresScreen :
    ∃ t, exec (.drw 0 1 5) (State.reset.setI 0x050) = .next t ∧
      (State.reset.setI 0x050).i.toNat + min 5 (32 - ((State.reset.setI 0x050).getV 1).toNat % 32) ≤ 0x1000 ∧
      t.getV 0 = (State.reset.setI 0x050).getV 0 ∧ t.getV 1 = (State.reset.setI 0x050).getV 1 ∧ t.i = 0x050 ∧
      t.mem = State.reset.mem ∧ t.screen = t.screen := ⟨_, rfl, by decide, by decide, by decide, rfl, rfl, rfl⟩

theorem witness_OnlyClsAndDrwReachDisplay :
    State.nextTurn (atWord 0x200 0x00E0) = .core ∧ ∃ t, step (atWord 0x200 0x00E0) = .next t := ⟨rfl, _, rfl⟩

theorem witness_CallPushesReturnAddress :
    State.reset.cfg.stackLimit ≠ some State.reset.stack.length ∧
    (limited 2 [0x202]).cfg.stackLimit ≠ some (limited 2 [0x202]).stack.length ∧
    (limited 2 [0x204, 0x202]).cfg.stackLimit = some (limited 2 [0x204, 0x202]).stack.length := by decide

theorem witness_RetPopsReturnAddress :
    (State.reset.setStack [0x1000]).stack = 0x1000 :: [] ∧ State.reset.stack = [] ∧ ∃ t, exec .ret .reset = .next t :=
  ⟨rfl, rfl, _, rfl⟩

/-- V27: calls at 0x200 and 0x300, and the two returns -/
theorem witness_ReturnsUnwindCalls :
    ∃ t u, Calls [0x200, 0x300] .reset t ∧ Returns [0x302, 0x202] t u ∧ [(0x302 : Word), 0x202].length = 2 :=
  ⟨(State.reset.setStack [0x302, 0x202]).setPc 0x304, (State.reset.setStack []).setPc 0x202,
    ⟨State.reset.setPc 0x202, (State.reset.setStack [0x202]).setPc 0x300, 0x300, rfl, rfl, by decide, rfl,
      (State.reset.setStack [0x202]).setPc 0x302, (State.reset.setStack [0x302, 0x202]).setPc 0x304, 0x304, rfl, rfl,
      by decide, rfl, rfl⟩,
    ⟨(State.reset.setStack [0x302, 0x202]).setPc 0x306, (State.reset.setStack [0x202]).setPc 0x302, rfl, by decide, rfl, rfl,
      (State.reset.setStack [0x202]).setPc 0x304, (State.reset.setStack []).setPc 0x202, rfl, by decide, rfl, rfl, rfl⟩, rfl⟩

theorem witness_SkipsOnRegisters :
    ((0x500F : Word) &&& 0xF000 = 0x5000 ∧ (0x500F : Word) &&& 0x000F ≠ 0) ∧
    ((0x9001 : Word) &&& 0xF000 = 0x9000 ∧ (0x9001 : Word) &&& 0x000F ≠ 0) := by decide

theorem witness_JpOffAddsSelectedRegister : oldReset.cfg.jump = .old ∧ State.reset.cfg.jump = .new := by decide

theorem witness_ParkedCoreNeverLeaves :
    (atWord 0xFFE 0x1FFE).Park ∧ (atWord 0 0x1000).Park ∧ (atWord 0xFFE 0x1FFE).nextTurn = .core ∧
    (atWord 0xFFE 0x1FFE).quit = false ∧ (atWord 0xFFE 0x1FFE).schedule = [] ∧ ∃ t, step (atWord 0xFFE 0x1FFE) = .next t :=
  ⟨⟨rfl, by decide, rfl⟩, ⟨rfl, by decide, rfl⟩, rfl, rfl, rfl, _, rfl⟩

/-- for 8XY4, 8XY5, 8XY7, 8XY6 and 8XYE alike, on both sides of the test -/
theorem witness_AddRegistersReportsCarry : (14 : Reg) ≠ 15 := by decide
theorem witness_SubtractionsReportNoBorrow : (0 : Reg) ≠ 15 := by decide
theorem witness_ShiftsReportLowBitOfVx : (14 : Reg) ≠ 15 ∧ oldReset.cfg.shift = .old ∧ State.reset.cfg.shift ≠ .old := by decide

theorem witness_AddIndexWrapsAndReportsOverflow :
    ((regs .reset [(1, 1)]).setI 0xFFF).cfg.indexOverflow = .new ∧
    0xFFF < ((regs .reset [(1, 1)]).setI 0xFFF).i.toNat + (((regs .reset [(1, 1)]).setI 0xFFF).getV 1).toNat := by decide

theorem witness_LdFontPointsAtGlyph : State.reset.cfg.wf = true ∧ edgeParams.wf = true := by decide

theorem witness_LdBcdStoresDigits :
    ((State.reset.setI 0xFFD).mem.wf = true ∧ (State.reset.setI 0xFFD).i.toNat + 2 < 0x1000) ∧
    ((State.reset.setI 0xFFE).mem.wf = true ∧ 0x1000 ≤ (State.reset.setI 0xFFE).i.toNat + 2) := by decide

theorem witness_StoreRegistersWritesBlock :
    ((oldReset.setI 0xFF0).mem.wf = true ∧ (oldReset.setI 0xFF0).i.toNat + (15 : Reg).val < 0x1000 ∧
      (oldReset.setI 0xFF0).cfg.indexIncrement = .old ∧ (15 : Reg) ≤ 15) ∧
    ((oldReset.setI 0xFF1).mem.wf = true ∧ 0x1000 ≤ (oldReset.setI 0xFF1).i.toNat + (15 : Reg).val) := by decide

theorem witness_LoadRegistersReadsBlock :
    ((oldReset.setI 0xFFF).i.toNat + (0 : Reg).val < 0x1000 ∧ (oldReset.setI 0xFFF).cfg.indexIncrement = .old ∧ (0 : Reg) ≤ 0) ∧
    0x1000 ≤ (oldReset.setI 0xFFF).i.toNat + (1 : Reg).val := by decide

theorem witness_FetchSeesStoredCode :
    ((State.reset.setI 0xFFE).setPc 0xFFE).mem.wf = true ∧ 1 ≤ (1 : Reg).val ∧
    ((State.reset.setI 0xFFE).setPc 0xFFE).i.toNat + (1 : Reg).val < 0x1000 ∧
    ((State.reset.setI 0xFFE).setPc 0xFFE).pc = ((State.reset.setI 0xFFE).setPc 0xFFE).i := by decide

/-- FX33 changes memory, 2NNN the stack, ANNN and (under OLD) FX55 change `I` -/
theorem witness_OnlyListedInstructionsWriteMemoryStackAndIndex :
    (∃ t, step (regs (atWord 0x200 0xF133) [(1, 1)]) = .next t ∧ t.mem ≠ (regs (atWord 0x200 0xF133) [(1, 1)]).mem) ∧
    (∃ t, step (atWord 0x200 0x2300) = .next t ∧ t.stack ≠ []) ∧ (∃ t, step (atWord 0x200 0xA300) = .next t ∧ t.i ≠ 0) ∧
    (∃ t, step { atWord 0x200 0xF055 with cfg := oldParams } = .next t ∧ t.i ≠ 0) :=
  ⟨⟨_, rfl, by decide⟩, ⟨_, rfl, by decide⟩, ⟨_, rfl, by decide⟩, _, rfl, by decide⟩

theorem witness_OnlyListedInstructionsWriteVf :
    ∃ t, exec (.addVxVy 1 2) (regs .reset [(1, 0xFF), (2, 1)]) = .next t ∧
      t.getV 15 ≠ (regs .reset [(1, 0xFF), (2, 1)]).getV 15 := ⟨_, rfl, by decide⟩

theorem witness_KeySkipsReadSnapshot :
    ((regs .reset [(5, 0x0F)]).getV 5).toNat = (15 : Key).val ∧ 0xF < ((regs .reset [(5, 0x10)]).getV 5).toNat := by decide

theorem witness_KeyWaitTakesLowestKey :
    ((down [5, 9])[(5 : Key)] = true ∧ ∀ j : Key, j < 5 → (down [5, 9])[j] = false) ∧
    ((down [15])[(15 : Key)] = true ∧ ∀ j : Key, j < 15 → (down [15])[j] = false) ∧
    (∀ k : Key, State.reset.keys[k] = false) := by decide

theorem witness_KeyWaitStepChangesNothing :
    (atWord 0xFFE 0xF30A).CoreReady ∧ (atWord 0xFFE 0xF30A).pc.toNat + 1 < 0x1000 ∧
    wordOfBytes ((atWord 0xFFE 0xF30A).mem.byteAt 0xFFE) ((atWord 0xFFE 0xF30A).mem.byteAt 0xFFF) &&& 0xF0FF = 0xF00A ∧
    ∀ k : Key, (atWord 0xFFE 0xF30A).keys[k] = false := ⟨⟨rfl, rfl, rfl⟩, by decide, by decide, by decide⟩

theorem witness_NoInstructionReadsSoundTimer :
    (∃ t, exec .cls .reset = .next t) ∧ (∀ x, Instr.cls ≠ .ldStVx x) ∧ ∃ t, exec (.ldStVx 3) .reset = .next t :=
  ⟨⟨_, rfl⟩, by decide, _, rfl⟩

theorem witness_TickCommutesWithOtherInstructions :
    (∃ t, exec (.ldVxK 3) (State.reset.setDt 7) = .next t) ∧
    ∀ x, Instr.ldVxK 3 ≠ .ldVxDt x ∧ Instr.ldVxK 3 ≠ .ldDtVx x ∧ Instr.ldVxK 3 ≠ .ldStVx x := ⟨⟨_, rfl⟩, by decide⟩

theorem witness_HostTakesOldestEvent :
    State.nextTurn { State.reset with events := [.clear, .changed []], schedule := [.takeEvent] } = .takeEvent ∧
    State.events { State.reset with events := [.clear, .changed []], schedule := [.takeEvent] } = .clear :: [.changed []] ∧
    State.nextTurn { State.reset with schedule := [.takeEvent] } = .takeEvent ∧
    State.events { State.reset with schedule := [.takeEvent] } = [] := ⟨rfl, rfl, rfl, rfl⟩

end Sys2Proof.Machine.Tests
end

section
/-! A turn of the machine, named by its agent (R100), and the host's consumption of display events (R18, R228). -/

namespace Sys2Proof.Machine

/-- R100: a step takes the turn that comes next, whichever agent's it is. -/
theorem step_of_nextTurn {s : State} {t : Turn} (h : s.nextTurn = t) : step s = takeTurn t s.turnUsed :=
  congrArg (takeTurn · s.turnUsed) h

theorem takeEvent_of_events_cons {s : State} {e : DisplayEvent} {rest : List DisplayEvent} (h : s.events = e :: rest) :
    s.takeEvent = { s with events := rest } := by
  rw [State.takeEvent, h, List.tail_cons]

theorem takeEvent_of_events_nil {s : State} (h : s.events = []) : s.takeEvent = s := by
  rw [State.takeEvent, h, List.tail_nil, ← h]

/-- Settles O59: the step is `takeEvent` after the turn is used up, by whether an event waits. -/
theorem hostTakesOldestEvent : Obligations.HostTakesOldestEvent := by
  intro s hturn
  have hstep : step s = .next s.turnUsed.takeEvent := step_of_nextTurn hturn
  constructor
  · intro e rest hevents
    rw [hstep, takeEvent_of_events_cons (s := s.turnUsed) hevents]
  · intro hevents
    rw [hstep, takeEvent_of_events_nil (s := s.turnUsed) hevents]

end Sys2Proof.Machine
end

section
/-! One equation per case of each instruction that branches, and what the shared updates do to a sprite, a skip and `I`. -/

namespace Sys2Proof.Machine

theorem exec_ret_empty {s : State} (h : s.stack = []) : exec .ret s = raise s .ret .stackUnderflow none none := by
  simp only [exec, execRet, h]

theorem exec_ret_pop {s : State} {top : Word} {rest : List Word} (h : s.stack = top :: rest) :
    exec .ret s = .next ((s.setPc top).setStack rest) := by
  simp only [exec, execRet, h]

/-- R29, R124: the stack is full exactly when it holds as many entries as its limit. -/
theorem stackFull_iff (s : State) : s.stackFull = true ↔ s.cfg.stackLimit = some s.stack.length := by
  unfold State.stackFull
  split <;> simp_all [eq_comm]

theorem exec_call_full {s : State} (nnn : Addr12) (h : s.cfg.stackLimit = some s.stack.length) :
    exec (.call nnn) s = raise s (.call nnn) .stackOverflow none none := by
  simp only [exec, execCall, (stackFull_iff s).mpr h, if_true]

theorem exec_call_push {s : State} (nnn : Addr12) (h : s.cfg.stackLimit ≠ some s.stack.length) :
    exec (.call nnn) s = .next ((s.setStack (s.pc :: s.stack)).setPc (nnn.setWidth 16)) := by
  simp only [exec, execCall, mt (stackFull_iff s).mp h, Bool.false_eq_true, if_false]

/-- The pixels DXYN toggles when every row it draws lies inside memory (R106 to R108). -/
def State.spriteAt (s : State) (x y : Reg) (n : Nat) : List Pixel :=
  spritePixels (originX (s.getV x)) (originY (s.getV y)) (s.mem.bytesAt s.i.toNat (rowsDrawn n (originY (s.getV y))))

theorem exec_drw_inside {s : State} {x y : Reg} {n : Nat}
    (h : rowsDrawn n (originY (s.getV y)) = 0 ∨ s.i.toNat + rowsDrawn n (originY (s.getV y)) ≤ memSize) :
    exec (.drw x y n) s =
      .next (((s.drawPixels false (s.spriteAt x y n)).1.setVF (flagByte (s.drawPixels false (s.spriteAt x y n)).2)).emit
        (.changed (s.spriteAt x y n))) := by
  simp only [exec, execDrw, load_inside s.mem h]
  rfl

theorem exec_drw_outside {s : State} {x y : Reg} {n : Nat} (h : 0 < rowsDrawn n (originY (s.getV y)))
    (h' : memSize < s.i.toNat + rowsDrawn n (originY (s.getV y))) :
    exec (.drw x y n) s = raise s (.drw x y n) .outOfBounds (some (max s.i.toNat memSize)) none := by
  simp only [exec, execDrw, load_outside s.mem h h']

theorem exec_skp_key {s : State} {x : Reg} {k : Key} (h : keyIndex (s.getV x) = some k) :
    exec (.skp x) s = .next (s.skipIf s.keys[k]) := by
  simp only [exec, execSkp, h]

theorem exec_skp_noKey {s : State} {x : Reg} (h : keyIndex (s.getV x) = none) :
    exec (.skp x) s = raise s (.skp x) .keyIndexOutOfRange none (some (s.getV x)) := by
  simp only [exec, execSkp, h]

theorem exec_sknp_key {s : State} {x : Reg} {k : Key} (h : keyIndex (s.getV x) = some k) :
    exec (.sknp x) s = .next (s.skipIf (!s.keys[k])) := by
  simp only [exec, execSknp, h]

theorem exec_sknp_noKey {s : State} {x : Reg} (h : keyIndex (s.getV x) = none) :
    exec (.sknp x) s = raise s (.sknp x) .keyIndexOutOfRange none (some (s.getV x)) := by
  simp only [exec, execSknp, h]

theorem exec_ldVxK_wait {s : State} (x : Reg) (h : s.firstKeyDown = none) :
    exec (.ldVxK x) s = .next (s.setPc (s.pc - 2)) := by
  simp only [exec, execLdVxK, h]

theorem exec_ldVxK_key {s : State} (x : Reg) {k : Key} (h : s.firstKeyDown = some k) :
    exec (.ldVxK x) s = .next (s.setV x (BitVec.ofNat 8 k.val)) := by
  simp only [exec, execLdVxK, h]

/-- FX1E reports an overflow of `I`: only under NEW, and only when the raw sum exceeds 0xFFF (R175, R176). -/
def State.reportsOverflow (s : State) (x : Reg) : Bool :=
  s.cfg.indexOverflow == .new && indexOverflows s.i (s.getV x)

theorem exec_addIVx (s : State) (x : Reg) :
    exec (.addIVx x) s = .next
      (if s.reportsOverflow x then (s.setI (indexOf (s.i.toNat + (s.getV x).toNat))).setVF 1
       else s.setI (indexOf (s.i.toNat + (s.getV x).toNat))) := by
  simp only [exec, execAddIVx, State.reportsOverflow]
  split <;> simp_all

theorem exec_ldBVx_inside {s : State} {x : Reg} (h : s.i.toNat + 3 ≤ memSize) :
    exec (.ldBVx x) s = .next (s.setMem (s.mem.setBytes s.i.toNat (bcdDigits (s.getV x)))) := by
  simp only [exec, execLdBVx, store_inside s.mem (l := bcdDigits (s.getV x)) (.inr h)]

theorem exec_ldBVx_outside {s : State} {x : Reg} (h : memSize < s.i.toNat + 3) :
    exec (.ldBVx x) s = raise s (.ldBVx x) .outOfBounds (some (max s.i.toNat memSize)) none := by
  simp only [exec, execLdBVx, store_outside s.mem (l := bcdDigits (s.getV x)) (by simp [bcdDigits]) h]

/-- FX55 with last register `x` stores `x + 1` bytes (R184). -/
theorem length_firstV_reg (s : State) (x : Reg) : (s.firstV (x.val + 1)).length = x.val + 1 := by
  have := x.isLt
  simp only [length_firstV]
  omega

theorem exec_ldMiVx_inside {s : State} {x : Reg} (h : s.i.toNat + (x.val + 1) ≤ memSize) :
    exec (.ldMiVx x) s =
      .next ((s.setMem (s.mem.setBytes s.i.toNat (s.firstV (x.val + 1)))).setI (s.indexAfter x)) := by
  rw [← length_firstV_reg s x] at h
  simp only [exec, execLdMiVx, store_inside s.mem (.inr h)]

theorem exec_ldMiVx_outside {s : State} {x : Reg} (h : memSize < s.i.toNat + (x.val + 1)) :
    exec (.ldMiVx x) s = raise s (.ldMiVx x) .outOfBounds (some (max s.i.toNat memSize)) none := by
  rw [← length_firstV_reg s x] at h
  simp only [exec, execLdMiVx, store_outside s.mem (by simp) h]

theorem exec_ldVxMi_inside {s : State} {x : Reg} (h : s.i.toNat + (x.val + 1) ≤ memSize) :
    exec (.ldVxMi x) s = .next ((s.loadV (s.mem.bytesAt s.i.toNat (x.val + 1))).setI (s.indexAfter x)) := by
  simp only [exec, execLdVxMi, load_inside s.mem (.inr h)]

theorem exec_ldVxMi_outside {s : State} {x : Reg} (h : memSize < s.i.toNat + (x.val + 1)) :
    exec (.ldVxMi x) s = raise s (.ldVxMi x) .outOfBounds (some (max s.i.toNat memSize)) none := by
  simp only [exec, execLdVxMi, load_outside s.mem (Nat.succ_pos _) h]

end Sys2Proof.Machine
end

section
/-! What each instruction may write, and that it writes nothing else: the frame of every instruction, said once (R96, R214). -/

namespace Sys2Proof.Machine

/-! ### Frames of the shared updates -/

/-- A frame that also keeps memory as data, not only each of its bytes, when it names no byte. -/
structure WritesOnly (w : Written) (s t : State) : Prop extends Frame w s t where
  mem_eq : (∀ a, w.mem a = false) → t.mem = s.mem

theorem WritesOnly.refl (w : Written) (s : State) : WritesOnly w s s := by
  refine ⟨?_, fun _ => rfl⟩
  constructor <;> intros <;> rfl

theorem writesOnly_setV (s : State) (x : Reg) (b : Byte) : WritesOnly { v := fun r => r == x } s (s.setV x b) :=
  { WritesOnly.refl _ s with
    v := fun _ hr => getV_setV_other s b (Ne.symm (ne_of_beq_false hr)) }

theorem writesOnly_setResultThenFlag (s : State) (x : Reg) (r f : Byte) :
    WritesOnly { v := fun y => y == x || y == 15 } s (s.setResultThenFlag x r f) :=
  { WritesOnly.refl _ s with
    v := fun y hy => by
      obtain ⟨hx, hvf⟩ := Bool.or_eq_false_iff.mp hy
      rw [getV_setResultThenFlag, if_neg (show y ≠ vf from ne_of_beq_false hvf), if_neg (ne_of_beq_false hx)] }

theorem writesOnly_setPc (s : State) (w : Word) : WritesOnly { pc := true } s (s.setPc w) :=
  { WritesOnly.refl _ s with pc := nofun }

theorem writesOnly_skipIf (s : State) (c : Bool) : WritesOnly { pc := true } s (s.skipIf c) := by
  rw [skipIf_eq]
  exact writesOnly_setPc s _

theorem writesOnly_setI (s : State) (w : Word) : WritesOnly { i := true } s (s.setI w) :=
  { WritesOnly.refl _ s with i := nofun }

/-- A store writes the bytes of its block and no other (R57). -/
theorem writesOnly_setBytes (s : State) (l : List Byte) :
    WritesOnly { mem := fun a => decide (s.i.toNat ≤ a ∧ a < s.i.toNat + l.length) } s
      (s.setMem (s.mem.setBytes s.i.toNat l)) :=
  { WritesOnly.refl _ s with
    mem := fun a ha => byteAt_setBytes_other s.mem l (by have := of_decide_eq_false ha; omega)
    mem_eq := fun hnone => by
      have hlen : l.length = 0 := by have := of_decide_eq_false (hnone s.i.toNat); omega
      rw [List.length_eq_zero_iff.mp hlen]
      rfl }

/-- Under `cfg.index_increment = NEW`, FX55 and FX65 leave `I` (R170). -/
theorem indexAfter_of_not_old {s : State} (x : Reg) (h : (s.cfg.indexIncrement == .old) = false) :
    s.indexAfter x = s.i := by
  unfold State.indexAfter
  split <;> simp_all

theorem getV_loadV_above {s : State} {x r : Reg} (h : x < r) :
    (s.loadV (s.mem.bytesAt s.i.toNat (x.val + 1))).getV r = s.getV r := by
  rw [getV_loadV, List.getD_eq_default]
  rw [length_bytesAt]
  exact h

/-! ### What an instruction may write -/

/-- What the instruction may write in the state `s`, the one after the advance, when it takes no fault (R20 to R28, R33, R34). -/
def writtenBy (i : Instr) (s : State) : Written :=
  match i with
  | .cls => { screen := true, events := true }
  | .ret | .call _ => { pc := true, stack := true }
  | .jp _ | .jpOff _ | .seVxNn _ _ | .sneVxNn _ _ | .seVxVy _ _ | .sneVxVy _ _ | .skp _ | .sknp _ => { pc := true }
  | .ldVxNn x _ | .addVxNn x _ | .ldVxVy x _ | .or x _ | .and x _ | .xor x _ | .ldVxDt x => { v := fun r => r == x }
  | .addVxVy x _ | .sub x _ | .subn x _ | .shr x _ | .shl x _ => { v := fun r => r == x || r == 15 }
  | .rnd x _ => { v := fun r => r == x, draws := true }
  | .drw _ _ _ => { v := fun r => r == 15, screen := true, events := true }
  | .ldVxK x => { pc := s.firstKeyDown.isNone, v := fun r => r == x && s.firstKeyDown.isSome }
  | .ldDtVx _ => { dt := true }
  | .ldStVx _ => { st := true }
  | .ldINnn _ | .ldFVx _ => { i := true }
  | .addIVx x => { i := true, v := fun r => r == 15 && s.reportsOverflow x }
  | .ldBVx _ => { mem := fun a => decide (s.i.toNat ≤ a ∧ a < s.i.toNat + 3) }
  | .ldMiVx x =>
    { i := s.cfg.indexIncrement == .old, mem := fun a => decide (s.i.toNat ≤ a ∧ a < s.i.toNat + (x.val + 1)) }
  | .ldVxMi x => { i := s.cfg.indexIncrement == .old, v := fun r => decide (r ≤ x) }

/-- `t` is `s`, the state after the advance, after a fault taken inside the instruction: all as before the step, `pc` back at the
instruction (R213, R214). -/
def FaultedIn (i : Instr) (s t : State) : Prop :=
  ∃ cause addr key, t = s.takeFault ⟨cause, s.pc - 2, some (encode i), addr, key⟩

theorem faultedIn_of_raise {i : Instr} {s : State} {cause : FaultCause} {addr : Option Nat} {key : Option Byte}
    (h : exec i s = raise s i cause addr key) {P : State → Prop} :
    ∃ t, exec i s = .next t ∧ (FaultedIn i s t ∨ P t) :=
  ⟨_, h, .inl ⟨cause, addr, key, rfl⟩⟩

/-- Every instruction answers a next state, after a fault of its own or after writing nothing but what it may write. -/
theorem exec_writesOnly (i : Instr) (s : State) :
    ∃ t, exec i s = .next t ∧ (FaultedIn i s t ∨ WritesOnly (writtenBy i s) s t) := by
  cases i with
  | cls => exact ⟨_, rfl, .inr { WritesOnly.refl _ s with screen := nofun, events := nofun }⟩
  | ret =>
    cases hs : s.stack with
    | nil => exact faultedIn_of_raise (exec_ret_empty hs)
    | cons top rest => exact ⟨_, exec_ret_pop hs, .inr { WritesOnly.refl _ s with pc := nofun, stack := nofun }⟩
  | call nnn =>
    by_cases hs : s.cfg.stackLimit = some s.stack.length
    · exact faultedIn_of_raise (exec_call_full nnn hs)
    · exact ⟨_, exec_call_push nnn hs, .inr { WritesOnly.refl _ s with pc := nofun, stack := nofun }⟩
  | drw x y n =>
    by_cases hb : 0 < rowsDrawn n (originY (s.getV y)) ∧ memSize < s.i.toNat + rowsDrawn n (originY (s.getV y))
    · exact faultedIn_of_raise (exec_drw_outside hb.1 hb.2)
    · refine ⟨_, exec_drw_inside (by omega), .inr ?_⟩
      rw [drawPixels_eq_setScreen]
      exact { WritesOnly.refl _ s with
        v := (writesOnly_setV (s.setScreen _) vf _).v
        screen := nofun
        events := nofun }
  | skp x =>
    cases hk : keyIndex (s.getV x) with
    | none => exact faultedIn_of_raise (exec_skp_noKey hk)
    | some k => exact ⟨_, exec_skp_key hk, .inr (writesOnly_skipIf s _)⟩
  | sknp x =>
    cases hk : keyIndex (s.getV x) with
    | none => exact faultedIn_of_raise (exec_sknp_noKey hk)
    | some k => exact ⟨_, exec_sknp_key hk, .inr (writesOnly_skipIf s _)⟩
  | ldVxK x =>
    cases hk : s.firstKeyDown with
    | none => exact ⟨_, exec_ldVxK_wait x hk, .inr { WritesOnly.refl _ s with pc := fun hpc => by simp [writtenBy, hk] at hpc }⟩
    | some k => exact ⟨_, exec_ldVxK_key x hk, .inr { WritesOnly.refl _ s with
        v := fun r hr => (writesOnly_setV s x _).v r (by simpa [writtenBy, hk] using hr) }⟩
  | addIVx x =>
    refine ⟨_, exec_addIVx s x, .inr ?_⟩
    cases ho : s.reportsOverflow x with
    | true =>
      exact { WritesOnly.refl _ s with
        v := fun r hr => (writesOnly_setV (s.setI _) vf _).v r (by simpa [writtenBy, ho, vf] using hr)
        i := nofun }
    | false => exact { WritesOnly.refl _ s with i := nofun }
  | ldBVx x =>
    by_cases hb : s.i.toNat + 3 ≤ memSize
    · exact ⟨_, exec_ldBVx_inside hb, .inr (writesOnly_setBytes s (bcdDigits (s.getV x)))⟩
    · exact faultedIn_of_raise (exec_ldBVx_outside (by omega))
  | ldMiVx x =>
    by_cases hb : s.i.toNat + (x.val + 1) ≤ memSize
    · have hstore := writesOnly_setBytes s (s.firstV (x.val + 1))
      rw [length_firstV_reg] at hstore
      exact ⟨_, exec_ldMiVx_inside hb, .inr { WritesOnly.refl _ s with
        i := indexAfter_of_not_old x
        mem := hstore.mem
        mem_eq := hstore.mem_eq }⟩
    · exact faultedIn_of_raise (exec_ldMiVx_outside (by omega))
  | ldVxMi x =>
    by_cases hb : s.i.toNat + (x.val + 1) ≤ memSize
    · exact ⟨_, exec_ldVxMi_inside hb, .inr { WritesOnly.refl _ s with
        i := indexAfter_of_not_old x
        v := fun r hr => getV_loadV_above (not_le.mp (of_decide_eq_false hr)) }⟩
    · exact faultedIn_of_raise (exec_ldVxMi_outside (by omega))
  | rnd x nn => exact ⟨_, rfl, .inr { writesOnly_setV s x _ with draws := nofun }⟩
  | ldDtVx x => exact ⟨_, rfl, .inr { WritesOnly.refl _ s with dt := nofun }⟩
  | ldStVx x => exact ⟨_, rfl, .inr { WritesOnly.refl _ s with st := nofun }⟩
  | ldINnn nnn => exact ⟨_, rfl, .inr (writesOnly_setI s _)⟩
  | ldFVx x => exact ⟨_, rfl, .inr (writesOnly_setI s _)⟩
  | jp nnn | jpOff nnn => exact ⟨_, rfl, .inr (writesOnly_setPc s _)⟩
  | seVxNn x nn | sneVxNn x nn => exact ⟨_, rfl, .inr (writesOnly_skipIf s _)⟩
  | seVxVy x y | sneVxVy x y => exact ⟨_, rfl, .inr (writesOnly_skipIf s _)⟩
  | ldVxNn x nn | addVxNn x nn => exact ⟨_, rfl, .inr (writesOnly_setV s x _)⟩
  | ldVxVy x y | or x y | and x y | xor x y => exact ⟨_, rfl, .inr (writesOnly_setV s x _)⟩
  | ldVxDt x => exact ⟨_, rfl, .inr (writesOnly_setV s x _)⟩
  | addVxVy x y | sub x y | subn x y | shr x y | shl x y => exact ⟨_, rfl, .inr (writesOnly_setResultThenFlag s x _ _)⟩

/-- The same of the next state an instruction answers. -/
theorem writesOnly_of_exec {i : Instr} {s t : State} (h : exec i s = .next t) :
    FaultedIn i s t ∨ WritesOnly (writtenBy i s) s t := by
  obtain ⟨t', h', hframe⟩ := exec_writesOnly i s
  cases h.symm.trans h'
  exact hframe

end Sys2Proof.Machine
end

section
/-! Which instructions may write a given part of the state: the readings of `writtenBy` (R25 to R28, R33, R34, R54). -/

namespace Sys2Proof.Machine

variable {i : Instr} {s : State}

theorem ldDtVx_of_written_dt (h : (writtenBy i s).dt = true) : ∃ x, i = .ldDtVx x := by
  cases i with
  | ldDtVx x => exact ⟨x, rfl⟩
  | _ => cases h

theorem ldStVx_of_written_st (h : (writtenBy i s).st = true) : ∃ x, i = .ldStVx x := by
  cases i with
  | ldStVx x => exact ⟨x, rfl⟩
  | _ => cases h

theorem ret_or_call_of_written_stack (h : (writtenBy i s).stack = true) : i = .ret ∨ ∃ nnn, i = .call nnn := by
  cases i with
  | ret => exact .inl rfl
  | call nnn => exact .inr ⟨nnn, rfl⟩
  | _ => cases h

theorem store_of_written_mem {a : Nat} (h : (writtenBy i s).mem a = true) : (∃ x, i = .ldBVx x) ∨ ∃ x, i = .ldMiVx x := by
  cases i with
  | ldBVx x => exact .inl ⟨x, rfl⟩
  | ldMiVx x => exact .inr ⟨x, rfl⟩
  | _ => cases h

theorem indexWriter_of_written_i (h : (writtenBy i s).i = true) :
    (∃ nnn, i = .ldINnn nnn) ∨ (∃ x, i = .addIVx x) ∨ (∃ x, i = .ldFVx x) ∨
      (s.cfg.indexIncrement = .old ∧ ((∃ x, i = .ldMiVx x) ∨ ∃ x, i = .ldVxMi x)) := by
  cases i with
  | ldINnn nnn => exact .inl ⟨nnn, rfl⟩
  | addIVx x => exact .inr (.inl ⟨x, rfl⟩)
  | ldFVx x => exact .inr (.inr (.inl ⟨x, rfl⟩))
  | ldMiVx x => exact .inr (.inr (.inr ⟨eq_of_beq h, .inl ⟨x, rfl⟩⟩))
  | ldVxMi x => exact .inr (.inr (.inr ⟨eq_of_beq h, .inr ⟨x, rfl⟩⟩))
  | _ => cases h

/-- The screen and the events are written together, by 00E0 and DXYN. -/
theorem keepsDisplay_or_draws (i : Instr) (s : State) :
    ((writtenBy i s).screen = false ∧ (writtenBy i s).events = false) ∨ i = .cls ∨ ∃ x y n, i = .drw x y n := by
  cases i with
  | cls => exact .inr (.inl rfl)
  | drw x y n => exact .inr (.inr ⟨x, y, n, rfl⟩)
  | _ => exact .inl ⟨rfl, rfl⟩

end Sys2Proof.Machine
end

section
/-! A word that decodes is the encoding of what it decodes to (R79), and so matches the row of that instruction (R86). -/

namespace Sys2Proof

variable {w : Word} {i : Instr}

/-! ### The formats, from the fields of a word -/

theorem encodeNNN_fields {op : BitVec 4} (h : (opcodeOf w).toNat = op.toNat) : encodeNNN op (fieldNNN w) = w := by
  apply BitVec.eq_of_toNat_eq
  rw [opcodeOf_toNat] at h
  rw [encodeNNN_toNat, fieldNNN_toNat]
  omega

theorem encodeXNN_fields {op : BitVec 4} {nn : Byte} (h : (opcodeOf w).toNat = op.toNat)
    (hnn : (fieldNN w).toNat = nn.toNat) : encodeXNN op (fieldX w) nn = w := by
  apply BitVec.eq_of_toNat_eq
  rw [opcodeOf_toNat] at h
  rw [fieldNN_toNat] at hnn
  rw [encodeXNN_toNat, fieldX_val]
  omega

theorem encodeXYN_fields {op n : BitVec 4} (h : (opcodeOf w).toNat = op.toNat) (hn : fieldN w = n.toNat) :
    encodeXYN op (fieldX w) (fieldY w) n = w := by
  apply BitVec.eq_of_toNat_eq
  rw [opcodeOf_toNat] at h
  rw [fieldN_eq] at hn
  rw [encodeXYN_toNat, fieldX_val, fieldY_val]
  omega

/-! ### The families -/

theorem encode_of_decodeFamily0 (h : decodeFamily0 w = .ok i) : encode i = w := by
  unfold decodeFamily0 at h
  split at h
  · cases h; exact Eq.symm ‹_›
  · split at h
    · cases h; exact Eq.symm ‹_›
    · cases h

theorem fieldN_of_decodeLowNibbleZero {j : Instr} (h : decodeLowNibbleZero w j = .ok i) : fieldN w = 0 ∧ i = j := by
  unfold decodeLowNibbleZero at h
  split at h
  · cases h; exact ⟨‹_›, rfl⟩
  · cases h

theorem encode_of_decodeFamily8 (hop : (opcodeOf w).toNat = 8) (h : decodeFamily8 w = .ok i) : encode i = w := by
  unfold decodeFamily8 at h
  split at h <;> cases h <;> exact encodeXYN_fields hop ‹_›

theorem encode_of_decodeFamilyE (hop : (opcodeOf w).toNat = 14) (h : decodeFamilyE w = .ok i) : encode i = w := by
  unfold decodeFamilyE at h
  split at h <;> cases h <;> exact encodeXNN_fields hop ‹_›

theorem encode_of_decodeFamilyF (hop : (opcodeOf w).toNat = 15) (h : decodeFamilyF w = .ok i) : encode i = w := by
  unfold decodeFamilyF at h
  split at h <;> cases h <;> exact encodeXNN_fields hop ‹_›

theorem ofNat_fieldN (w : Word) : fieldN w = (BitVec.ofNat 4 (fieldN w)).toNat := by
  rw [fieldN_eq, BitVec.toNat_ofNat]
  omega

/-- No bit of a word is dropped by decoding it (R79). -/
theorem encode_of_decode (h : decode w = .ok i) : encode i = w := by
  unfold decode at h
  split at h
  case h_1 => exact encode_of_decodeFamily0 h
  case h_2 hop | h_3 hop | h_11 hop | h_12 hop => cases h; exact encodeNNN_fields hop
  case h_4 hop | h_5 hop | h_7 hop | h_8 hop | h_13 hop => cases h; exact encodeXNN_fields hop rfl
  case h_6 hop | h_10 hop =>
    obtain ⟨hn, rfl⟩ := fieldN_of_decodeLowNibbleZero h
    exact encodeXYN_fields hop hn
  case h_9 hop => exact encode_of_decodeFamily8 hop h
  case h_14 hop => cases h; exact encodeXYN_fields hop (ofNat_fieldN w)
  case h_15 hop => exact encode_of_decodeFamilyE hop h
  case h_16 hop => exact encode_of_decodeFamilyF hop h
  case h_17 => cases h

/-- A word that decodes has the pattern of its instruction's row, if the instruction's encoding has it (R86). -/
theorem and_mask_of_decode {mask pattern : Word} (h : decode w = .ok i) (hrow : encode i &&& mask = pattern) :
    w &&& mask = pattern := by
  rwa [encode_of_decode h] at hrow

/-! ### From a row's pattern to the instruction -/

theorem decode_encode_call (nnn : Addr12) : decode (encode (.call nnn)) = .ok (.call nnn) := by
  obtain ⟨hop, hnnn⟩ := fields_encodeNNN 0x2 nnn
  have hop' : (opcodeOf (encode (.call nnn))).toNat = 2 := congrArg BitVec.toNat hop
  simp only [decode, hop']
  exact congrArg (Except.ok <| Instr.call ·) hnnn

theorem opcodeOf_and (w mask : Word) : opcodeOf (w &&& mask) = opcodeOf w &&& opcodeOf mask :=
  BitVec.extractLsb'_and

theorem fieldNN_and (w mask : Word) : fieldNN (w &&& mask) = fieldNN w &&& fieldNN mask :=
  BitVec.extractLsb'_and

/-- The mask of the family F rows keeps the opcode and the low byte (R71, R86). -/
theorem fields_of_and_F0FF (w : Word) : opcodeOf (w &&& 0xF0FF) = opcodeOf w ∧ fieldNN (w &&& 0xF0FF) = fieldNN w := by
  rw [opcodeOf_and, fieldNN_and]
  exact ⟨BitVec.and_allOnes, BitVec.and_allOnes⟩

/-- A word of the row FX0A decodes to its instruction (R77, R86). -/
theorem decode_of_matches_ldVxK (h : w &&& 0xF0FF = 0xF00A) : decode w = .ok (.ldVxK (fieldX w)) := by
  obtain ⟨hop, hnn⟩ := fields_of_and_F0FF w
  rw [h] at hop hnn
  have hop' : (opcodeOf w).toNat = 0xF := by rw [← hop]; rfl
  have hnn' : (fieldNN w).toNat = 0x0A := by rw [← hnn]; rfl
  simp only [decode, hop', decodeFamilyF, hnn']

end Sys2Proof
end

section
/-! What a core turn that answers a next state can have done: a precise fault, or the writes of the instruction fetched
(R90 to R95, R214). -/

namespace Sys2Proof.Machine

/-- The big-endian word at `pc`, the one the core fetches when it lies inside memory (R91). -/
def State.wordAtPc (s : State) : Word := wordOfBytes (s.mem.byteAt s.pc.toNat) (s.mem.byteAt (s.pc.toNat + 1))

/-- The state in which a core turn runs the instruction fetched: the turn used up and `pc` advanced (R93). -/
def State.advanced (s : State) : State := s.turnUsed.setPc (s.pc + 2)

/-- A fault inside the instruction leaves the state before the step, halted with a record of its `pc` (R214). -/
theorem faultedIn_advanced {i : Instr} {s t : State} (h : FaultedIn i s.advanced t) :
    ∃ r, r.pc = s.pc ∧ t = s.turnUsed.takeFault r := by
  obtain ⟨cause, addr, key, rfl⟩ := h
  exact ⟨_, BitVec.add_sub_cancel s.pc 2, rfl⟩

/-- A core turn that answers a next state found the core enabled. It either took a fault, with a record of `pc`, or ran the
instruction at `pc`, which wrote nothing but what it may write. -/
theorem coreTurn_cases {s t : State} (hturn : s.nextTurn = .core) (h : step s = .next t) :
    s.halted = .running ∧
    ((∃ r, r.pc = s.pc ∧ t = s.turnUsed.takeFault r) ∨
     ∃ i, s.pc.toNat + 1 < memSize ∧ decode s.wordAtPc = .ok i ∧ exec i s.advanced = .next t ∧
       WritesOnly (writtenBy i s.advanced) s.advanced t) := by
  rw [step_of_nextTurn hturn] at h
  obtain ⟨-, hrun, hnext⟩ := coreStep_next h
  refine ⟨hrun, ?_⟩
  rcases runInstruction_cases s.turnUsed with ⟨-, hr⟩ | ⟨w, -, -, -, hr⟩ | ⟨w, i, hpc, rfl, hdec, hr⟩
  · cases hnext.symm.trans hr
    exact .inl ⟨_, rfl, rfl⟩
  · cases hnext.symm.trans hr
    exact .inl ⟨_, rfl, rfl⟩
  · have hexec : exec i s.advanced = .next t := hr.symm.trans hnext
    rcases writesOnly_of_exec hexec with hfault | hframe
    · exact .inl (faultedIn_advanced hfault)
    · exact .inr ⟨i, hpc, hdec, hexec, hframe⟩

end Sys2Proof.Machine
end

section
/-! The invariant of reachable states (R42): what it takes for each shared update to keep it, and that every instruction and every
turn does. -/

namespace Sys2Proof.Machine

/-! ### The invariant and the shared updates -/

/-- The invariant speaks of memory, `I`, `pc`, the stack, the parameters and the halt state only. -/
theorem State.Inv.congr {s t : State} (h : s.Inv) (hmem : t.mem = s.mem := by rfl) (hi : t.i = s.i := by rfl)
    (hpc : t.pc = s.pc := by rfl) (hstack : t.stack = s.stack := by rfl) (hcfg : t.cfg = s.cfg := by rfl)
    (hhalted : t.halted = s.halted := by rfl) : t.Inv where
  mem_wf := hmem ▸ h.mem_wf
  index_valid := hi ▸ h.index_valid
  pc_bounded := hpc ▸ h.pc_bounded
  stack_bounded := hstack ▸ h.stack_bounded
  stack_depth := by rw [hcfg, hstack]; exact h.stack_depth
  params_wf := hcfg ▸ h.params_wf
  record_pc := by rw [hhalted, hpc]; exact h.record_pc

/-- A fault keeps the invariant when its record names a bounded `pc` (R214). -/
theorem inv_takeFault {s : State} (h : s.Inv) {r : FaultRecord} (hpc : r.pc.toNat ≤ 0x10FE) : (s.takeFault r).Inv where
  mem_wf := h.mem_wf
  index_valid := h.index_valid
  pc_bounded := hpc
  stack_bounded := h.stack_bounded
  stack_depth := h.stack_depth
  params_wf := h.params_wf
  record_pc := fun _ hr => by cases hr; rfl

theorem inv_setI {s : State} (h : s.Inv) {w : Word} (hw : w.toNat ≤ 0xFFF) : (s.setI w).Inv :=
  { h with index_valid := hw }

theorem inv_setMem {s : State} (h : s.Inv) {m : Memory} (hm : m.wf = true) : (s.setMem m).Inv :=
  { h with mem_wf := hm }

/-- Only a running core moves `pc`: a record would name the old one. -/
theorem inv_setPc {s : State} (h : s.Inv) (hrun : s.halted = .running) {w : Word} (hw : w.toNat ≤ 0x10FE) :
    (s.setPc w).Inv :=
  { h with
    pc_bounded := hw
    record_pc := fun r hr => by cases hrun.symm.trans hr }

theorem inv_setStack {s : State} (h : s.Inv) {l : List Word} (hl : ∀ a ∈ l, a.toNat ≤ 0x1000)
    (hdepth : ∀ n, s.cfg.stackLimit = some n → l.length ≤ n) : (s.setStack l).Inv :=
  { h with stack_bounded := hl, stack_depth := hdepth }

end Sys2Proof.Machine
end

section
/-! Every instruction keeps the invariant (R25, R28, R29, R42): the bounds of what is written to `I` and `pc`, then the
instructions. -/

namespace Sys2Proof.Machine

/-! ### Bounds of the values written to `I` and `pc` -/

theorem toNat_setWidth_addr (nnn : Addr12) : (nnn.setWidth 16 : Word).toNat = nnn.toNat :=
  BitVec.toNat_setWidth_of_le (by decide)

theorem addr_le (nnn : Addr12) : (nnn.setWidth 16 : Word).toNat ≤ 0xFFF := by
  have := nnn.isLt
  rw [toNat_setWidth_addr]
  omega

theorem indexOf_le (n : Nat) : (indexOf n).toNat ≤ 0xFFF := by
  rw [indexOf, BitVec.toNat_ofNat]
  omega

theorem indexAfter_le {s : State} (h : s.i.toNat ≤ 0xFFF) (x : Reg) : (s.indexAfter x).toNat ≤ 0xFFF := by
  unfold State.indexAfter
  split
  · exact indexOf_le _
  · exact h

theorem fontBase_le {p : Params} (h : p.wf = true) : p.fontBase + 80 ≤ 0x200 :=
  of_decide_eq_true (Bool.and_eq_true_iff.mp h).1

theorem glyphAddress_le {s : State} (h : s.cfg.wf = true) (b : Byte) : (s.glyphAddress b).toNat ≤ 0xFFF := by
  have hfont := fontBase_le h
  have hlow : (b &&& 0x0F).toNat ≤ 15 := Nat.and_le_right
  rw [State.glyphAddress, BitVec.toNat_ofNat]
  exact le_trans (Nat.mod_le _ _) (by omega)

/-- BNNN forms its target on the 16-bit `pc`, so it goes no further than 0xFFF + 0xFF (R42, R134). -/
theorem jumpTarget_le (s : State) (nnn : Addr12) : (s.jumpTarget nnn).toNat ≤ 0x10FE := by
  have hnnn := addr_le nnn
  have hv := (s.getV (s.jumpRegister nnn)).isLt
  have hwide : ((s.getV (s.jumpRegister nnn)).setWidth 16 : Word).toNat = (s.getV (s.jumpRegister nnn)).toNat :=
    BitVec.toNat_setWidth_of_le (by decide)
  rw [State.jumpTarget, BitVec.toNat_add, hwide]
  exact le_trans (Nat.mod_le _ _) (by omega)

/-! ### The instructions -/

section

variable {s : State} (hinv : s.Inv) (hrun : s.halted = .running) (hlow : 2 ≤ s.pc.toNat) (hhigh : s.pc.toNat ≤ 0x1000)
include hinv hrun hhigh

theorem inv_skipIf (c : Bool) : (s.skipIf c).Inv := by
  rw [skipIf_eq]
  refine inv_setPc hinv hrun ?_
  cases c with
  | true => simp only [if_true]; bv_omega
  | false => exact hinv.pc_bounded

theorem inv_call (nnn : Addr12) (h : s.cfg.stackLimit ≠ some s.stack.length) :
    ((s.setStack (s.pc :: s.stack)).setPc (nnn.setWidth 16)).Inv := by
  have hdepth : ∀ n, s.cfg.stackLimit = some n → (s.pc :: s.stack).length ≤ n := by
    intro n hn
    have hle := hinv.stack_depth n hn
    have hne : s.stack.length ≠ n := fun heq => h (heq ▸ hn)
    rw [List.length_cons]
    omega
  have hentries : ∀ a ∈ s.pc :: s.stack, a.toNat ≤ 0x1000 := List.forall_mem_cons.mpr ⟨hhigh, hinv.stack_bounded⟩
  exact inv_setPc (inv_setStack hinv hentries hdepth) hrun (le_trans (addr_le nnn) (by decide))

omit hhigh in
theorem inv_ret {top : Word} {rest : List Word} (h : s.stack = top :: rest) : ((s.setPc top).setStack rest).Inv := by
  have hentries := hinv.stack_bounded
  rw [h] at hentries
  obtain ⟨htop, hrest⟩ := List.forall_mem_cons.mp hentries
  refine inv_setStack (inv_setPc hinv hrun (by omega)) hrest fun n hn => ?_
  have hle := hinv.stack_depth n hn
  rw [h, List.length_cons] at hle
  omega

include hlow

omit hrun in
theorem inv_of_faultedIn {i : Instr} {t : State} (h : FaultedIn i s t) : t.Inv := by
  obtain ⟨cause, addr, key, rfl⟩ := h
  exact inv_takeFault hinv (show (s.pc - 2).toNat ≤ 0x10FE by bv_omega)

/-- An instruction run after the advance from an address inside memory keeps the invariant. -/
theorem inv_exec (i : Instr) : ∃ t, exec i s = .next t ∧ (FaultedIn i s t ∨ t.Inv) := by
  cases i with
  | ret =>
    cases hs : s.stack with
    | nil => exact faultedIn_of_raise (exec_ret_empty hs)
    | cons top rest => exact ⟨_, exec_ret_pop hs, .inr (inv_ret hinv hrun hs)⟩
  | call nnn =>
    by_cases hs : s.cfg.stackLimit = some s.stack.length
    · exact faultedIn_of_raise (exec_call_full nnn hs)
    · exact ⟨_, exec_call_push nnn hs, .inr (inv_call hinv hrun hhigh nnn hs)⟩
  | drw x y n =>
    by_cases hb : 0 < rowsDrawn n (originY (s.getV y)) ∧ memSize < s.i.toNat + rowsDrawn n (originY (s.getV y))
    · exact faultedIn_of_raise (exec_drw_outside hb.1 hb.2)
    · refine ⟨_, exec_drw_inside (by omega), .inr ?_⟩
      rw [drawPixels_eq_setScreen]
      exact hinv.congr
  | skp x =>
    cases hk : keyIndex (s.getV x) with
    | none => exact faultedIn_of_raise (exec_skp_noKey hk)
    | some k => exact ⟨_, exec_skp_key hk, .inr (inv_skipIf hinv hrun hhigh _)⟩
  | sknp x =>
    cases hk : keyIndex (s.getV x) with
    | none => exact faultedIn_of_raise (exec_sknp_noKey hk)
    | some k => exact ⟨_, exec_sknp_key hk, .inr (inv_skipIf hinv hrun hhigh _)⟩
  | ldVxK x =>
    cases hk : s.firstKeyDown with
    | none => exact ⟨_, exec_ldVxK_wait x hk, .inr (inv_setPc hinv hrun (by bv_omega))⟩
    | some k => exact ⟨_, exec_ldVxK_key x hk, .inr hinv.congr⟩
  | addIVx x =>
    have hadded : (s.setI (indexOf (s.i.toNat + (s.getV x).toNat))).Inv := inv_setI hinv (indexOf_le _)
    refine ⟨_, exec_addIVx s x, .inr ?_⟩
    split
    · exact hadded.congr
    · exact hadded
  | ldBVx x =>
    by_cases hb : s.i.toNat + 3 ≤ memSize
    · exact ⟨_, exec_ldBVx_inside hb, .inr (inv_setMem hinv (setBytes_wf hinv.mem_wf _ _))⟩
    · exact faultedIn_of_raise (exec_ldBVx_outside (by omega))
  | ldMiVx x =>
    by_cases hb : s.i.toNat + (x.val + 1) ≤ memSize
    · have hstored := inv_setMem hinv (setBytes_wf hinv.mem_wf s.i.toNat (s.firstV (x.val + 1)))
      exact ⟨_, exec_ldMiVx_inside hb, .inr (inv_setI hstored (indexAfter_le hinv.index_valid x))⟩
    · exact faultedIn_of_raise (exec_ldMiVx_outside (by omega))
  | ldVxMi x =>
    by_cases hb : s.i.toNat + (x.val + 1) ≤ memSize
    · have hloaded : (s.loadV (s.mem.bytesAt s.i.toNat (x.val + 1))).Inv := hinv.congr
      exact ⟨_, exec_ldVxMi_inside hb, .inr (inv_setI hloaded (indexAfter_le hinv.index_valid x))⟩
    · exact faultedIn_of_raise (exec_ldVxMi_outside (by omega))
  | ldINnn nnn => exact ⟨_, rfl, .inr (inv_setI hinv (addr_le nnn))⟩
  | ldFVx x => exact ⟨_, rfl, .inr (inv_setI hinv (glyphAddress_le hinv.params_wf _))⟩
  | jp nnn => exact ⟨_, rfl, .inr (inv_setPc hinv hrun (le_trans (addr_le nnn) (by decide)))⟩
  | jpOff nnn => exact ⟨_, rfl, .inr (inv_setPc hinv hrun (jumpTarget_le s nnn))⟩
  | seVxNn x nn | sneVxNn x nn => exact ⟨_, rfl, .inr (inv_skipIf hinv hrun hhigh _)⟩
  | seVxVy x y | sneVxVy x y => exact ⟨_, rfl, .inr (inv_skipIf hinv hrun hhigh _)⟩
  | _ => exact ⟨_, rfl, .inr hinv.congr⟩

theorem inv_of_exec {i : Instr} {t : State} (h : exec i s = .next t) : t.Inv := by
  obtain ⟨t', h', hfault | ht⟩ := inv_exec hinv hrun hlow hhigh i <;> cases h.symm.trans h'
  · exact inv_of_faultedIn hinv hlow hhigh hfault
  · exact ht

end

/-- A core turn keeps the invariant: the word at `pc` lies inside memory, so the advanced `pc` is at most 0x1000. -/
theorem inv_of_coreTurn {s t : State} (hinv : s.Inv) (hturn : s.nextTurn = .core) (h : step s = .next t) : t.Inv := by
  obtain ⟨hrun, ⟨r, hr, rfl⟩ | ⟨i, hpc, -, hexec, -⟩⟩ := coreTurn_cases hturn h
  · exact inv_takeFault hinv.congr (hr ▸ hinv.pc_bounded)
  · unfold memSize at hpc
    have hadv : (s.pc + 2).toNat = s.pc.toNat + 2 := by bv_omega
    have hready : s.advanced.Inv := inv_setPc (s := s.turnUsed) hinv.congr hrun (by omega)
    exact inv_of_exec hready hrun (show 2 ≤ (s.pc + 2).toNat by omega) (show (s.pc + 2).toNat ≤ 0x1000 by omega) hexec

/-- Settles O21: the agents other than the core write nothing the invariant speaks of, and the core keeps it. -/
theorem stepKeepsInvariant : Obligations.StepKeepsInvariant := by
  intro s t hinv h
  rcases step_cases h with ⟨hturn, -⟩ | ⟨-, rfl⟩ | ⟨k, -, rfl⟩ | ⟨-, rfl⟩ | ⟨-, rfl⟩
  · exact inv_of_coreTurn hinv hturn h
  all_goals exact hinv.congr

end Sys2Proof.Machine
end

section
/-! Boot, reset and runs: the invariant of every reachable state (R42, R43, R240). -/

namespace Sys2Proof.Machine

/-- A boot that leaves a state loaded the image, and the rest is as after reset (R240, R242). -/
theorem boot_ok {p : Params} {rom : List Byte} {s : State} (h : State.boot p (some rom) = .ok s) :
    ∃ m, (bootMemory p).loadRom rom = .ok m ∧ s = { State.reset with cfg := p, mem := m } := by
  simp only [State.boot] at h
  split at h
  · cases h
  · cases h; exact ⟨_, ‹_›, rfl⟩

/-- With canonical memory and legal parameters, the other values of reset meet the invariant (R43). -/
theorem inv_reset {p : Params} {m : Memory} (hp : p.wf = true) (hm : m.wf = true) :
    State.Inv { State.reset with cfg := p, mem := m } where
  mem_wf := hm
  index_valid := show (0 : Word).toNat ≤ 0xFFF by decide
  pc_bounded := show (0x200 : Word).toNat ≤ 0x10FE by decide
  stack_bounded := nofun
  stack_depth n _ := Nat.zero_le n
  params_wf := hp
  record_pc := nofun

/-- Settles O19: reset has the default parameters and nothing listed in memory. -/
theorem resetMeetsInvariant : Obligations.ResetMeetsInvariant :=
  inv_reset (p := defaultParams) (by decide) empty_wf

/-- Settles O20: the image is loaded into canonical memory, byte by byte. -/
theorem bootMeetsInvariant : Obligations.BootMeetsInvariant := by
  intro p rom s hp h
  obtain ⟨m, hm, rfl⟩ := boot_ok h
  exact inv_reset hp (loadRom_wf (bootMemory_wf p) hm)

/-- The invariant holds along every run from a state that meets it. -/
theorem inv_of_run {n : Nat} {s t : State} (hinv : s.Inv) (h : core.run n s = .next t) : t.Inv := by
  induction n generalizing s with
  | zero => cases h; exact hinv
  | succ n ih =>
    obtain ⟨s', hstep, hrun⟩ := run_succ_next h
    exact ih (stepKeepsInvariant s s' hinv hstep) hrun

/-- Settles O22: a boot meets the invariant under every list of turns, and every step keeps it. -/
theorem reachableStatesMeetInvariant : Obligations.ReachableStatesMeetInvariant := by
  intro p rom s t turns n hp hboot hrun
  exact inv_of_run (bootMeetsInvariant p rom s hp hboot).congr hrun

/-- Settles O15: memory lists nothing after reset, so its bytes are the reset bytes. -/
theorem resetValuesAreAsListed : Obligations.ResetValuesAreAsListed := by
  refine ⟨rfl, ?_, rfl, rfl, rfl, rfl, blank_pixel State.reset, ?_, rfl, resetByte_font, fun a => resetByte_outside⟩
  · decide
  · decide

end Sys2Proof.Machine
end

section
/-! Canonical memories with the same bytes are the same data (log entry 3). -/

namespace Sys2Proof.Machine

theorem cellsWf_cons {lo : Nat} {c : Host.Cell} {rest : List Host.Cell} :
    cellsWf lo (c :: rest) = true ↔
      lo ≤ c.1 ∧ c.1 < memSize ∧ c.2 ≠ resetByte c.1 ∧ cellsWf (c.1 + 1) rest = true := by
  simp only [cellsWf, Bool.and_eq_true, decide_eq_true_eq, and_assoc]

theorem lookupCell_cons_self (c : Host.Cell) (rest : List Host.Cell) : lookupCell c.1 (c :: rest) = c.2 :=
  if_pos rfl

theorem lookupCell_cons_other {c : Host.Cell} {a : Nat} (rest : List Host.Cell) (h : a ≠ c.1) :
    lookupCell a (c :: rest) = lookupCell a rest :=
  if_neg h

/-- The first cell of a canonical list differs from what a list that begins above it reads there. -/
theorem lookupCell_ne_of_lt {lo lo' : Nat} {c : Host.Cell} {rest l : List Host.Cell} (hw : cellsWf lo (c :: rest) = true)
    (hw' : cellsWf lo' l = true) (h : c.1 < lo') : lookupCell c.1 (c :: rest) ≠ lookupCell c.1 l := by
  obtain ⟨-, -, hne, -⟩ := cellsWf_cons.mp hw
  rw [lookupCell_cons_self, lookupCell_below hw' h]
  exact hne

theorem cells_eq_of_lookupCell_eq {lo : Nat} {l l' : List Host.Cell} (hw : cellsWf lo l = true)
    (hw' : cellsWf lo l' = true) (h : ∀ a, a < memSize → lookupCell a l = lookupCell a l') : l = l' := by
  induction l generalizing lo l' with
  | nil =>
    cases l' with
    | nil => rfl
    | cons c' rest' =>
      obtain ⟨-, hlt', -, -⟩ := cellsWf_cons.mp hw'
      exact absurd (h c'.1 hlt').symm (lookupCell_ne_of_lt hw' (l := []) rfl (Nat.lt_succ_self _))
  | cons c rest ih =>
    obtain ⟨-, hlt, hne, hrest⟩ := cellsWf_cons.mp hw
    cases l' with
    | nil => exact absurd (h c.1 hlt) (lookupCell_ne_of_lt hw (l := []) rfl (Nat.lt_succ_self _))
    | cons c' rest' =>
      obtain ⟨-, hlt', hne', hrest'⟩ := cellsWf_cons.mp hw'
      have hfirst : c.1 = c'.1 := by
        rcases lt_trichotomy c.1 c'.1 with hc | hc | hc
        · have hfrom' : cellsWf c'.1 (c' :: rest') = true := cellsWf_cons.mpr ⟨le_rfl, hlt', hne', hrest'⟩
          exact absurd (h c.1 hlt) (lookupCell_ne_of_lt hw hfrom' hc)
        · exact hc
        · have hfrom : cellsWf c.1 (c :: rest) = true := cellsWf_cons.mpr ⟨le_rfl, hlt, hne, hrest⟩
          exact absurd (h c'.1 hlt').symm (lookupCell_ne_of_lt hw' hfrom hc)
      have hbyte : c.2 = c'.2 := by
        have hread := h c.1 hlt
        rwa [lookupCell_cons_self, hfirst, lookupCell_cons_self] at hread
      obtain rfl : c = c' := Prod.ext hfirst hbyte
      refine congrArg (c :: ·) (ih hrest hrest' fun a ha => ?_)
      by_cases hac : a = c.1
      · rw [lookupCell_below hrest (by omega), lookupCell_below hrest' (by omega)]
      · have hread := h a ha
        rwa [lookupCell_cons_other rest hac, lookupCell_cons_other rest' hac] at hread

/-- Settles O23, by induction on the lists of cells. -/
theorem canonicalMemoriesWithEqualBytesAreEqual : Obligations.CanonicalMemoriesWithEqualBytesAreEqual := by
  intro m m' hw hw' h
  exact congrArg Memory.mk (cells_eq_of_lookupCell_eq hw hw' h)

end Sys2Proof.Machine
end

section
/-! What turns of the agents leave alone: faults, timers, keys, the display, memory, the stack, `I` and VF (R25 to R37, R54, R102). -/

namespace Sys2Proof.Machine

/-- Settles O9: a core step needs a running core, and no other agent writes what the statement names. -/
theorem faultedCoreStaysFaulted : Obligations.FaultedCoreStaysFaulted := by
  intro s r hhalted
  have hstuck : s.nextTurn = .core → ∀ t, step s ≠ .next t := by
    intro hturn t h
    obtain ⟨hrun, -⟩ := coreTurn_cases hturn h
    cases hhalted.symm.trans hrun
  refine ⟨fun hturn hquit => ?_, hstuck, fun t h => ?_⟩
  · rw [step_of_nextTurn hturn]
    simp only [takeTurn, coreStep, turnUsed_quit, hquit, Bool.false_eq_true, if_false, turnUsed_halted, hhalted]
  · rcases step_cases h with ⟨hturn, -⟩ | ⟨-, rfl⟩ | ⟨k, -, rfl⟩ | ⟨-, rfl⟩ | ⟨-, rfl⟩
    · exact absurd h (hstuck hturn t)
    all_goals exact ⟨hhalted, rfl, rfl, rfl, rfl, rfl, rfl⟩

/-! ### Timers -/

/-- A tick raises no timer (R205). -/
theorem countDown_le (b : Byte) : (countDown b).toNat ≤ b.toNat := by
  unfold countDown
  split
  · exact Nat.zero_le _
  · bv_omega

/-- A core turn changes a timer only by a load of it (R26, R27). -/
theorem coreTurn_timers {s t : State} (hturn : s.nextTurn = .core) (h : step s = .next t) :
    (t.dt ≠ s.dt → s.wordAtPc &&& 0xF0FF = 0xF015) ∧ (t.st ≠ s.st → s.wordAtPc &&& 0xF0FF = 0xF018) := by
  obtain ⟨-, ⟨r, -, rfl⟩ | ⟨i, -, hdec, -, hframe⟩⟩ := coreTurn_cases hturn h
  · exact ⟨fun hdt => absurd rfl hdt, fun hst => absurd rfl hst⟩
  · constructor
    · intro hdt
      obtain ⟨x, rfl⟩ := ldDtVx_of_written_dt (eq_true_of_ne_false (mt hframe.dt hdt))
      exact and_mask_of_decode hdec (Laws.EncodesRow.ldDtVx x)
    · intro hst
      obtain ⟨x, rfl⟩ := ldStVx_of_written_st (eq_true_of_ne_false (mt hframe.st hst))
      exact and_mask_of_decode hdec (Laws.EncodesRow.ldStVx x)

/-- Settles O13: the core changes a timer only by its load, a tick lowers it, and the host leaves it. -/
theorem timersRiseOnlyByTheirLoads : Obligations.TimersRiseOnlyByTheirLoads := by
  intro s t h w
  rcases step_cases h with ⟨hturn, -⟩ | ⟨-, rfl⟩ | ⟨k, -, rfl⟩ | ⟨-, rfl⟩ | ⟨-, rfl⟩
  · obtain ⟨hdt, hst⟩ := coreTurn_timers hturn h
    exact ⟨fun hlt => ⟨hturn, hdt (ne_of_apply_ne BitVec.toNat hlt.ne')⟩,
      fun hlt => ⟨hturn, hst (ne_of_apply_ne BitVec.toNat hlt.ne')⟩⟩
  · exact ⟨fun hlt => absurd hlt (countDown_le s.dt).not_gt, fun hlt => absurd hlt (countDown_le s.st).not_gt⟩
  all_goals exact ⟨fun hlt => absurd hlt (lt_irrefl _), fun hlt => absurd hlt (lt_irrefl _)⟩

/-! ### Keys and parameters -/

/-- A core turn leaves the keypad and the parameters alone and uses up one turn (R31, R35). -/
theorem coreTurn_keepsControl {s t : State} (hturn : s.nextTurn = .core) (h : step s = .next t) :
    t.cfg = s.cfg ∧ t.schedule = s.schedule.tail ∧ t.keys = s.keys := by
  obtain ⟨-, ⟨r, -, rfl⟩ | ⟨i, -, -, -, hframe⟩⟩ := coreTurn_cases hturn h
  · exact ⟨rfl, rfl, rfl⟩
  · exact ⟨hframe.cfg, hframe.schedule, hframe.keys⟩

/-- Settles O14: by the agent whose turn it is. -/
theorem onlyHostRefreshesKeys : Obligations.OnlyHostRefreshesKeys := by
  intro s
  refine ⟨fun k hturn => step_of_nextTurn hturn, fun t h => ?_⟩
  rcases step_cases h with ⟨hturn, -⟩ | ⟨-, rfl⟩ | ⟨k, hturn, rfl⟩ | ⟨-, rfl⟩ | ⟨-, rfl⟩
  · obtain ⟨hcfg, hschedule, hkeys⟩ := coreTurn_keepsControl hturn h
    exact ⟨hcfg, hschedule, fun hne => absurd hkeys hne⟩
  · exact ⟨rfl, rfl, fun hne => absurd rfl hne⟩
  · exact ⟨rfl, rfl, fun _ => ⟨k, hturn, rfl⟩⟩
  all_goals exact ⟨rfl, rfl, fun hne => absurd rfl hne⟩

/-! ### The display -/

theorem exec_drw_events {s t : State} {x y : Reg} {n : Nat} (h : exec (.drw x y n) s = .next t)
    (hrun : t.halted = .running) : ∃ e, t.events = s.events ++ [e] := by
  by_cases hb : 0 < rowsDrawn n (originY (s.getV y)) ∧ memSize < s.i.toNat + rowsDrawn n (originY (s.getV y))
  · cases h.symm.trans (exec_drw_outside hb.1 hb.2)
    cases hrun
  · cases h.symm.trans (exec_drw_inside (by omega))
    rw [drawPixels_eq_setScreen]
    exact ⟨_, rfl⟩

/-- Settles O27: of the instructions only 00E0 and DXYN may write the screen or the events. -/
theorem onlyClsAndDrwReachDisplay : Obligations.OnlyClsAndDrwReachDisplay := by
  intro s t hturn h w
  obtain ⟨hrun, ⟨r, -, rfl⟩ | ⟨i, -, hdec, hexec, hframe⟩⟩ := coreTurn_cases hturn h
  · exact .inl ⟨rfl, rfl⟩
  · have hrun' : t.halted = .running := hframe.halted.trans hrun
    rcases keepsDisplay_or_draws i s.advanced with ⟨hscreen, hevents⟩ | rfl | ⟨x, y, n, rfl⟩
    · exact .inl ⟨hframe.screen hscreen, hframe.events hevents⟩
    · cases hexec
      exact .inr ⟨.inl (encode_of_decode hdec).symm, hrun', .clear, rfl⟩
    · exact .inr ⟨.inr (and_mask_of_decode hdec (Laws.EncodesRow.drw x y n)), hrun', exec_drw_events (s := s.advanced) hexec hrun'⟩

/-! ### Memory, stack and index -/

/-- Settles O50: a core turn that changes one of them ran an instruction that may write it. -/
theorem onlyListedInstructionsWriteMemoryStackAndIndex :
    Obligations.OnlyListedInstructionsWriteMemoryStackAndIndex := by
  intro s t hturn h w
  obtain ⟨-, ⟨r, -, rfl⟩ | ⟨i, -, hdec, -, hframe⟩⟩ := coreTurn_cases hturn h
  · exact ⟨fun hne => absurd rfl hne, fun hne => absurd rfl hne, fun hne => absurd rfl hne⟩
  refine ⟨fun hmem => ?_, fun hstack => ?_, fun hi => ?_⟩
  · obtain ⟨a, ha⟩ := not_forall.mp (mt hframe.mem_eq hmem)
    rcases store_of_written_mem (eq_true_of_ne_false ha) with ⟨x, rfl⟩ | ⟨x, rfl⟩
    · exact .inl (and_mask_of_decode hdec (Laws.EncodesRow.ldBVx x))
    · exact .inr (and_mask_of_decode hdec (Laws.EncodesRow.ldMiVx x))
  · rcases ret_or_call_of_written_stack (eq_true_of_ne_false (mt hframe.stack hstack)) with rfl | ⟨nnn, rfl⟩
    · exact .inr (encode_of_decode hdec).symm
    · exact .inl (and_mask_of_decode hdec (Laws.EncodesRow.call nnn))
  · rcases indexWriter_of_written_i (eq_true_of_ne_false (mt hframe.i hi)) with
      ⟨nnn, rfl⟩ | ⟨x, rfl⟩ | ⟨x, rfl⟩ | ⟨hold, ⟨x, rfl⟩ | ⟨x, rfl⟩⟩
    · exact .inl (and_mask_of_decode hdec (Laws.EncodesRow.ldINnn nnn))
    · exact .inr (.inl (and_mask_of_decode hdec (Laws.EncodesRow.addIVx x)))
    · exact .inr (.inr (.inl (and_mask_of_decode hdec (Laws.EncodesRow.ldFVx x))))
    · exact .inr (.inr (.inr ⟨hold, .inl (and_mask_of_decode hdec (Laws.EncodesRow.ldMiVx x))⟩))
    · exact .inr (.inr (.inr ⟨hold, .inr (and_mask_of_decode hdec (Laws.EncodesRow.ldVxMi x))⟩))

end Sys2Proof.Machine
end

section
/-! VF, the key wait, the sound timer and the call (R27, R33, R38, R124, R198). -/

namespace Sys2Proof.Machine

/-- A destination that covers VF is VF (R22). -/
theorem eq_vf_of_beq {x : Reg} (h : ((15 : Reg) == x) = true) : x = 15 := (eq_of_beq h).symm

/-- The instructions that may write VF: as a flag, or as their destination (R33). -/
theorem vfWriter_of_written_vf {i : Instr} {s : State} (h : (writtenBy i s).v 15 = true) :
    (∃ x y, i = .addVxVy x y ∨ i = .sub x y ∨ i = .subn x y ∨ i = .shr x y ∨ i = .shl x y) ∨
    (∃ x y n, i = .drw x y n) ∨
    (∃ x, i = .addIVx x ∧ s.cfg.indexOverflow = .new ∧ 0xFFF < s.i.toNat + (s.getV x).toNat) ∨
    (∃ nn, i = .ldVxNn 15 nn ∨ i = .addVxNn 15 nn ∨ i = .rnd 15 nn) ∨
    (∃ y, i = .ldVxVy 15 y ∨ i = .or 15 y ∨ i = .and 15 y ∨ i = .xor 15 y) ∨
    i = .ldVxDt 15 ∨ i = .ldVxK 15 ∨ i = .ldVxMi 15 := by
  cases i with
  | addVxVy x y | sub x y | subn x y | shr x y | shl x y => exact .inl ⟨x, y, by simp⟩
  | drw x y n => exact .inr (.inl ⟨x, y, n, rfl⟩)
  | addIVx x =>
    obtain ⟨hnew, hover⟩ := Bool.and_eq_true_iff.mp (show s.reportsOverflow x = true from h)
    exact .inr (.inr (.inl ⟨x, rfl, eq_of_beq hnew, of_decide_eq_true hover⟩))
  | ldVxNn x nn | addVxNn x nn | rnd x nn =>
    obtain rfl := eq_vf_of_beq h
    exact .inr (.inr (.inr (.inl ⟨nn, by simp⟩)))
  | ldVxVy x y | or x y | and x y | xor x y =>
    obtain rfl := eq_vf_of_beq h
    exact .inr (.inr (.inr (.inr (.inl ⟨y, by simp⟩))))
  | ldVxDt x =>
    obtain rfl := eq_vf_of_beq h
    simp
  | ldVxK x =>
    obtain rfl := eq_vf_of_beq (Bool.and_eq_true_iff.mp h).1
    simp
  | ldVxMi x =>
    obtain rfl : x = 15 := le_antisymm (Fin.le_last x) (of_decide_eq_true h)
    simp
  | _ => cases h

/-- Settles O51: a fault leaves VF, and without one VF changes only if the instruction may write it. -/
theorem onlyListedInstructionsWriteVf : Obligations.OnlyListedInstructionsWriteVf := by
  intro i s t h hne
  rcases writesOnly_of_exec h with ⟨_, _, _, rfl⟩ | hframe
  · exact absurd rfl hne
  · exact vfWriter_of_written_vf (eq_true_of_ne_false (mt (hframe.v 15) hne))

/-! ### The key wait -/

theorem firstKeyDown_eq_none {s : State} (h : ∀ k : Key, s.keys[k] = false) : s.firstKeyDown = none :=
  List.find?_eq_none.mpr fun k _ => by rw [h k]; exact Bool.false_ne_true

/-- Settles O54: FX0A with no key down takes back the advance of `pc`. -/
theorem keyWaitStepChangesNothing : Obligations.KeyWaitStepChangesNothing := by
  intro s hready hpc hword hkeys
  have hdec := decode_of_matches_ldVxK hword
  have hrun : runInstruction s.turnUsed = exec (.ldVxK (fieldX s.wordAtPc)) s.advanced := by
    rcases runInstruction_cases s.turnUsed with ⟨hout, -⟩ | ⟨w, -, rfl, herr, -⟩ | ⟨w, i, -, rfl, hok, hr⟩
    · exact absurd hout (not_le.mpr hpc)
    · cases hdec.symm.trans herr
    · cases hdec.symm.trans hok
      exact hr
  have hback : s.advanced.setPc (s.advanced.pc - 2) = s.turnUsed :=
    congrArg s.turnUsed.setPc (BitVec.add_sub_cancel s.pc 2)
  rw [step_of_coreReady hready, hrun, ← hback]
  exact exec_ldVxK_wait _ (firstKeyDown_eq_none hkeys)

/-! ### The sound timer -/

theorem skipIf_setSt (s : State) (b : Byte) (c : Bool) : (s.setSt b).skipIf c = (s.skipIf c).setSt b := by
  cases c <;> rfl

theorem drawPixels_setSt (s : State) (b : Byte) (c : Bool) (ps : List Pixel) :
    (s.setSt b).drawPixels c ps = ((s.drawPixels c ps).1.setSt b, (s.drawPixels c ps).2) := by
  induction ps generalizing s c with
  | nil => rfl
  | cons p rest ih => exact ih (s.togglePixel p) _

/-- An instruction that does not load ST runs alike whatever ST holds (R27). -/
theorem exec_setSt (i : Instr) (s : State) (b : Byte) (hi : ∀ x, i ≠ .ldStVx x) :
    ∃ t, exec i s = .next t ∧ exec i (s.setSt b) = .next (t.setSt b) := by
  cases i with
  | ldStVx x => exact absurd rfl (hi x)
  | ret =>
    cases hs : s.stack with
    | nil => exact ⟨_, exec_ret_empty hs, exec_ret_empty hs⟩
    | cons top rest => exact ⟨_, exec_ret_pop hs, exec_ret_pop hs⟩
  | call nnn =>
    by_cases hs : s.cfg.stackLimit = some s.stack.length
    · exact ⟨_, exec_call_full nnn hs, exec_call_full nnn hs⟩
    · exact ⟨_, exec_call_push nnn hs, exec_call_push nnn hs⟩
  | drw x y n =>
    by_cases hb : 0 < rowsDrawn n (originY (s.getV y)) ∧ memSize < s.i.toNat + rowsDrawn n (originY (s.getV y))
    · exact ⟨_, exec_drw_outside hb.1 hb.2, exec_drw_outside hb.1 hb.2⟩
    · have hin : rowsDrawn n (originY (s.getV y)) = 0 ∨ s.i.toNat + rowsDrawn n (originY (s.getV y)) ≤ memSize := by omega
      refine ⟨_, exec_drw_inside hin, (exec_drw_inside (s := s.setSt b) hin).trans ?_⟩
      rw [drawPixels_setSt]
      rfl
  | skp x =>
    cases hk : keyIndex (s.getV x) with
    | none => exact ⟨_, exec_skp_noKey hk, exec_skp_noKey hk⟩
    | some k => exact ⟨_, exec_skp_key hk, (exec_skp_key (s := s.setSt b) hk).trans (congrArg _ (skipIf_setSt s b _))⟩
  | sknp x =>
    cases hk : keyIndex (s.getV x) with
    | none => exact ⟨_, exec_sknp_noKey hk, exec_sknp_noKey hk⟩
    | some k => exact ⟨_, exec_sknp_key hk, (exec_sknp_key (s := s.setSt b) hk).trans (congrArg _ (skipIf_setSt s b _))⟩
  | ldVxK x =>
    cases hk : s.firstKeyDown with
    | none => exact ⟨_, exec_ldVxK_wait x hk, exec_ldVxK_wait x hk⟩
    | some k => exact ⟨_, exec_ldVxK_key x hk, exec_ldVxK_key x hk⟩
  | addIVx x =>
    refine ⟨_, exec_addIVx s x, (exec_addIVx _ x).trans ?_⟩
    rw [apply_ite (State.setSt · b)]
    rfl
  | ldBVx x =>
    by_cases hb : s.i.toNat + 3 ≤ memSize
    · exact ⟨_, exec_ldBVx_inside hb, exec_ldBVx_inside hb⟩
    · exact ⟨_, exec_ldBVx_outside (not_le.mp hb), exec_ldBVx_outside (not_le.mp hb)⟩
  | ldMiVx x =>
    by_cases hb : s.i.toNat + (x.val + 1) ≤ memSize
    · exact ⟨_, exec_ldMiVx_inside hb, exec_ldMiVx_inside hb⟩
    · exact ⟨_, exec_ldMiVx_outside (not_le.mp hb), exec_ldMiVx_outside (not_le.mp hb)⟩
  | ldVxMi x =>
    by_cases hb : s.i.toNat + (x.val + 1) ≤ memSize
    · exact ⟨_, exec_ldVxMi_inside hb, exec_ldVxMi_inside hb⟩
    · exact ⟨_, exec_ldVxMi_outside (not_le.mp hb), exec_ldVxMi_outside (not_le.mp hb)⟩
  | seVxNn x nn | sneVxNn x nn => exact ⟨_, rfl, congrArg _ (skipIf_setSt s b _)⟩
  | seVxVy x y | sneVxVy x y => exact ⟨_, rfl, congrArg _ (skipIf_setSt s b _)⟩
  | _ => exact ⟨_, rfl, rfl⟩

/-- Settles O57: FX18 overwrites ST, and every other instruction carries it along. -/
theorem noInstructionReadsSoundTimer : Obligations.NoInstructionReadsSoundTimer := by
  intro i s t b h
  constructor
  · intro hi
    obtain ⟨t', h', hset⟩ := exec_setSt i s b hi
    cases h.symm.trans h'
    exact hset
  · rintro x rfl
    exact h

/-! ### The call -/

/-- Settles O29: by whether the stack is full. -/
theorem callPushesReturnAddress : Obligations.CallPushesReturnAddress := by
  intro s nnn
  refine ⟨⟨Laws.EncodesRow.call nnn, decode_encode_call nnn⟩, fun hroom => ?_, fun hfull => ?_⟩
  · exact ⟨_, exec_call_push nnn hroom, rfl, toNat_setWidth_addr nnn,
      { (WritesOnly.refl _ s).toFrame with pc := nofun, stack := nofun }⟩
  · exact raises_of_exec_eq_raise (exec_call_full nnn hfull)

end Sys2Proof.Machine
end

section
/-! The fetch after a store (R64, R91, R184), and the tick, which commutes with every instruction that reads and
writes no timer (R60, R61). -/

namespace Sys2Proof.Machine

/-! ### Stored code -/

/-- The first two registers of a block stored inside memory are the word at its address, high byte first (R51, R184). -/
theorem loadWord_setBytes_firstV {s : State} (hw : s.mem.wf = true) {n a : Nat} (hn : 2 ≤ n) (ha : a + 1 < memSize) :
    (s.mem.setBytes a (s.firstV n)).loadWord a = .ok (wordOfBytes (s.getV 0) (s.getV 1)) := by
  have hlen : 1 < (s.firstV n).length := by rw [length_firstV]; omega
  have hhigh : (s.mem.setBytes a (s.firstV n)).byteAt a = s.getV 0 :=
    (byteAt_setBytes_same hw 0 (by omega) (by omega)).trans (getElem_firstV s n 0 _)
  have hlow : (s.mem.setBytes a (s.firstV n)).byteAt (a + 1) = s.getV 1 :=
    (byteAt_setBytes_same hw 1 hlen ha).trans (getElem_firstV s n 1 _)
  rw [loadWord_inside _ ha, hhigh, hlow]

/-- Settles O49: the block begins at `pc` and holds at least two registers, so its first word is the one fetched next. -/
theorem fetchSeesStoredCode : Obligations.FetchSeesStoredCode := by
  intro s x hw hx hin hpc
  have hblock : s.i.toNat + (x.val + 1) ≤ memSize := hin
  refine ⟨_, exec_ldMiVx_inside hblock, rfl, ?_⟩
  rw [setI_pc, setMem_pc, hpc]
  exact loadWord_setBytes_firstV hw (by omega) (by omega)

/-! ### What an instruction reads or does is the same after a tick -/

@[simp] theorem tick_firstV (s : State) (n : Nat) : s.tick.firstV n = s.firstV n := rfl
@[simp] theorem tick_firstKeyDown (s : State) : s.tick.firstKeyDown = s.firstKeyDown := rfl

theorem tick_skipIf (s : State) (c : Bool) : s.tick.skipIf c = (s.skipIf c).tick := by
  cases c <;> rfl

theorem tick_drawPixels (s : State) (c : Bool) (ps : List Pixel) :
    s.tick.drawPixels c ps = ((s.drawPixels c ps).1.tick, (s.drawPixels c ps).2) := by
  induction ps generalizing s c with
  | nil => rfl
  | cons p rest ih => exact ih (s.togglePixel p) _

/-! ### The tick -/

/-- An instruction that touches no timer chooses its branch by what a tick leaves alone, and in each branch, a fault's included,
makes the same update before and after the tick (R60, R61). -/
theorem exec_tick (i : Instr) (s : State) (hi : ∀ x, i ≠ .ldVxDt x ∧ i ≠ .ldDtVx x ∧ i ≠ .ldStVx x) :
    ∃ t, exec i s = .next t ∧ exec i s.tick = .next t.tick := by
  cases i with
  | ldVxDt x => exact absurd rfl (hi x).1
  | ldDtVx x => exact absurd rfl (hi x).2.1
  | ldStVx x => exact absurd rfl (hi x).2.2
  | ret =>
    simp only [exec, execRet, tick_stack]
    split <;> exact ⟨_, rfl, rfl⟩
  | call nnn =>
    by_cases hs : s.cfg.stackLimit = some s.stack.length
    · exact ⟨_, exec_call_full nnn hs, exec_call_full nnn hs⟩
    · exact ⟨_, exec_call_push nnn hs, exec_call_push nnn hs⟩
  | seVxNn x _ | sneVxNn x _ | seVxVy x _ | sneVxVy x _ => exact ⟨_, rfl, congrArg _ (tick_skipIf s _)⟩
  | skp x | sknp x =>
    simp only [exec, execSkp, execSknp, tick_getV, tick_keys, tick_skipIf]
    split <;> exact ⟨_, rfl, rfl⟩
  | drw x y n =>
    simp only [exec, execDrw, tick_mem, tick_i, tick_getV, tick_drawPixels]
    split <;> exact ⟨_, rfl, rfl⟩
  | addIVx x =>
    refine ⟨_, exec_addIVx s x, (exec_addIVx s.tick x).trans ?_⟩
    rw [apply_ite State.tick]
    rfl
  | ldBVx x =>
    simp only [exec, execLdBVx, tick_mem, tick_i, tick_getV]
    split <;> exact ⟨_, rfl, rfl⟩
  | ldMiVx x =>
    simp only [exec, execLdMiVx, tick_mem, tick_i, tick_firstV]
    split <;> exact ⟨_, rfl, rfl⟩
  | ldVxMi x =>
    simp only [exec, execLdVxMi, tick_mem, tick_i]
    split <;> exact ⟨_, rfl, rfl⟩
  | ldVxK x =>
    simp only [exec, execLdVxK, tick_firstKeyDown]
    split <;> exact ⟨_, rfl, rfl⟩
  | _ => exact ⟨_, rfl, rfl⟩

/-- Settles O58: the state after the instruction is the one whose tick `exec_tick` reaches. -/
theorem tickCommutesWithOtherInstructions : Obligations.TickCommutesWithOtherInstructions := by
  intro i s t h hi
  obtain ⟨t', h', htick⟩ := exec_tick i s hi
  cases h.symm.trans h'
  exact htick

end Sys2Proof.Machine
end

section
/-! Decoding and encoding are inverse to each other (R72, R73, R79, R83). -/

namespace Sys2Proof

variable {w : Word} {i : Instr}

/-- The encoder keeps the low four bits of a sprite height, and the decoder gives them back (R73). -/
theorem decode_encode_drw (x y : Reg) (n : Nat) : decode (encode (.drw x y n)) = .ok (.drw x y (n % 16)) := by
  simp [encode, decode, fields_encodeXYN]

/-- The round trip, format by format: the opcode field picks the family, a sub-operation field the row, and the other
fields are the operands. -/
theorem decode_encode (h : i.wellFormed = true) : decode (encode i) = .ok i := by
  cases i with
  | cls | ret => rfl
  | call nnn => exact decode_encode_call nnn
  | jp nnn | ldINnn nnn | jpOff nnn => simp [encode, decode, fields_encodeNNN]
  | seVxNn x nn | sneVxNn x nn | ldVxNn x nn | addVxNn x nn | rnd x nn => simp [encode, decode, fields_encodeXNN]
  | seVxVy x y | sneVxVy x y => simp [encode, decode, decodeLowNibbleZero, fields_encodeXYN]
  | ldVxVy x y | or x y | and x y | xor x y | addVxVy x y | sub x y | subn x y | shr x y | shl x y =>
    simp [encode, decode, decodeFamily8, fields_encodeXYN]
  | drw x y n =>
    have hn : n < 16 := Nat.lt_succ_of_le (of_decide_eq_true h)
    rw [decode_encode_drw, Nat.mod_eq_of_lt hn]
  | skp x | sknp x => simp [encode, decode, decodeFamilyE, fields_encodeXNN]
  | ldVxDt x | ldVxK x | ldDtVx x | ldStVx x | addIVx x | ldFVx x | ldBVx x | ldMiVx x | ldVxMi x =>
    simp [encode, decode, decodeFamilyF, fields_encodeXNN]

/-- Only a sprite height could be ill formed, and a decoded one is a 4-bit field (R71). -/
theorem wellFormed_of_decode (h : decode w = .ok i) : i.wellFormed = true := by
  cases i with
  | drw x y n =>
    have hback := decode_encode_drw x y n
    rw [encode_of_decode h, h] at hback
    have hn : n = n % 16 := by simpa using hback
    exact decide_eq_true (by omega)
  | _ => rfl

/-- Settles O1, from the fields of an encoded word. -/
theorem decodeInvertsEncode : Obligations.DecodeInvertsEncode := fun _ => decode_encode

/-- Settles O2: the encoding is rebuilt from the word's fields, and a height from a field fits it. -/
theorem encodeInvertsDecode : Obligations.EncodeInvertsDecode :=
  fun _ _ h => ⟨encode_of_decode h, wellFormed_of_decode h⟩

/-- Settles O4, by running the decoder on each word. -/
theorem sampleWordsDecodeAsListed : Obligations.SampleWordsDecodeAsListed := by
  unfold Obligations.SampleWordsDecodeAsListed
  decide

end Sys2Proof
end

section
/-! The decision tree against the masks and patterns of the opcode map (R74 to R79, R86, R95). -/

namespace Sys2Proof

variable {w : Word} {i : Instr}

/-! ### The rows -/

theorem matchesWord_iff {r : OpcodeRow} : r.matchesWord w = true ↔ w &&& r.mask = r.pattern := beq_iff_eq

/-- The row of an instruction is that of its representative, whatever its operands are. -/
theorem row_mem_opcodeRows (i : Instr) : i.row ∈ opcodeRows := by
  cases i <;> exact of_decide_eq_true rfl

/-- The family `Laws.EncodesRow`, over all instructions. -/
theorem encode_and_row_mask : ∀ i : Instr, encode i &&& i.row.mask = i.row.pattern
  | .cls => Laws.EncodesRow.cls
  | .ret => Laws.EncodesRow.ret
  | .jp nnn => Laws.EncodesRow.jp nnn
  | .call nnn => Laws.EncodesRow.call nnn
  | .seVxNn x nn => Laws.EncodesRow.seVxNn x nn
  | .sneVxNn x nn => Laws.EncodesRow.sneVxNn x nn
  | .seVxVy x y => Laws.EncodesRow.seVxVy x y
  | .ldVxNn x nn => Laws.EncodesRow.ldVxNn x nn
  | .addVxNn x nn => Laws.EncodesRow.addVxNn x nn
  | .ldVxVy x y => Laws.EncodesRow.ldVxVy x y
  | .or x y => Laws.EncodesRow.or x y
  | .and x y => Laws.EncodesRow.and x y
  | .xor x y => Laws.EncodesRow.xor x y
  | .addVxVy x y => Laws.EncodesRow.addVxVy x y
  | .sub x y => Laws.EncodesRow.sub x y
  | .subn x y => Laws.EncodesRow.subn x y
  | .shr x y => Laws.EncodesRow.shr x y
  | .shl x y => Laws.EncodesRow.shl x y
  | .sneVxVy x y => Laws.EncodesRow.sneVxVy x y
  | .ldINnn nnn => Laws.EncodesRow.ldINnn nnn
  | .jpOff nnn => Laws.EncodesRow.jpOff nnn
  | .rnd x nn => Laws.EncodesRow.rnd x nn
  | .drw x y n => Laws.EncodesRow.drw x y n
  | .skp x => Laws.EncodesRow.skp x
  | .sknp x => Laws.EncodesRow.sknp x
  | .ldVxDt x => Laws.EncodesRow.ldVxDt x
  | .ldVxK x => Laws.EncodesRow.ldVxK x
  | .ldDtVx x => Laws.EncodesRow.ldDtVx x
  | .ldStVx x => Laws.EncodesRow.ldStVx x
  | .addIVx x => Laws.EncodesRow.addIVx x
  | .ldFVx x => Laws.EncodesRow.ldFVx x
  | .ldBVx x => Laws.EncodesRow.ldBVx x
  | .ldMiVx x => Laws.EncodesRow.ldMiVx x
  | .ldVxMi x => Laws.EncodesRow.ldVxMi x

theorem row_matchesWord_of_decode (h : decode w = .ok i) : i.row.matchesWord w = true :=
  matchesWord_iff.mpr (and_mask_of_decode h (encode_and_row_mask i))

/-- The patterns of two rows differ in a bit that both masks keep. -/
theorem eq_of_patterns_agree :
    ∀ r ∈ opcodeRows, ∀ r' ∈ opcodeRows, r.pattern &&& r'.mask = r'.pattern &&& r.mask → r = r' := by decide

/-- No word matches two rows. -/
theorem eq_of_matchesWord {r r' : OpcodeRow} (hr : r ∈ opcodeRows) (hr' : r' ∈ opcodeRows)
    (h : r.matchesWord w = true) (h' : r'.matchesWord w = true) : r = r' := by
  refine eq_of_patterns_agree r hr r' hr' ?_
  rw [← matchesWord_iff.mp h, ← matchesWord_iff.mp h', BitVec.and_assoc, BitVec.and_assoc, BitVec.and_comm r.mask]

/-! ### A word of a row decodes -/

section
variable {pattern : Word}

/-- A row without a sub-operation field fixes the opcode (R71, R86). -/
theorem opcodeOf_of_and_F000 (h : w &&& 0xF000 = pattern) : opcodeOf w = opcodeOf pattern := by
  rw [← h, opcodeOf_and]
  exact BitVec.and_allOnes.symm

/-- A row of register pairs fixes the opcode and the low nibble (R71, R86). -/
theorem opcodeOf_fieldN_of_and_F00F (h : w &&& 0xF00F = pattern) :
    opcodeOf w = opcodeOf pattern ∧ fieldN w = fieldN pattern := by
  rw [← h, opcodeOf_and]
  exact ⟨BitVec.and_allOnes.symm, congrArg BitVec.toNat (BitVec.extractLsb'_and.trans BitVec.and_allOnes).symm⟩

/-- A row of one register fixes the opcode and the low byte (R71, R86). -/
theorem opcodeOf_fieldNN_of_and_F0FF (h : w &&& 0xF0FF = pattern) :
    opcodeOf w = opcodeOf pattern ∧ fieldNN w = fieldNN pattern := by
  obtain ⟨hop, hnn⟩ := fields_of_and_F0FF w
  exact ⟨by rw [← h, hop], by rw [← h, hnn]⟩

end

/-- The fields the tree looks at are the ones the row fixes (R74 to R77). -/
theorem decodes_of_row_matchesWord (h : i.row.matchesWord w = true) : ∃ j, decode w = .ok j := by
  rw [matchesWord_iff] at h
  cases i with
  | cls | ret =>
    obtain rfl := BitVec.and_allOnes.symm.trans h
    exact ⟨_, rfl⟩
  | jp _ | call _ | seVxNn _ _ | sneVxNn _ _ | ldVxNn _ _ | addVxNn _ _ | ldINnn _ | jpOff _ | rnd _ _ | drw _ _ _ =>
    have hop := opcodeOf_of_and_F000 h
    exact ⟨_, by simp only [decode, hop, Instr.row]; rfl⟩
  | seVxVy _ _ | sneVxVy _ _ =>
    obtain ⟨hop, hn⟩ := opcodeOf_fieldN_of_and_F00F h
    exact ⟨_, by simp only [decode, decodeLowNibbleZero, hop, hn, Instr.row]; rfl⟩
  | ldVxVy _ _ | or _ _ | and _ _ | xor _ _ | addVxVy _ _ | sub _ _ | subn _ _ | shr _ _ | shl _ _ =>
    obtain ⟨hop, hn⟩ := opcodeOf_fieldN_of_and_F00F h
    exact ⟨_, by simp only [decode, decodeFamily8, hop, hn, Instr.row]; rfl⟩
  | skp _ | sknp _ =>
    obtain ⟨hop, hnn⟩ := opcodeOf_fieldNN_of_and_F0FF h
    exact ⟨_, by simp only [decode, decodeFamilyE, hop, hnn, Instr.row]; rfl⟩
  | ldVxDt _ | ldVxK _ | ldDtVx _ | ldStVx _ | addIVx _ | ldFVx _ | ldBVx _ | ldMiVx _ | ldVxMi _ =>
    obtain ⟨hop, hnn⟩ := opcodeOf_fieldNN_of_and_F0FF h
    exact ⟨_, by simp only [decode, decodeFamilyF, hop, hnn, Instr.row]; rfl⟩

/-! ### A word of no row is rejected -/

/-- Every branch of the tree answers an instruction or rejects the word by its own name (R78, R95). -/
theorem decode_cases (w : Word) : (∃ i, decode w = .ok i) ∨ decode w = .error (.unimplemented w) := by
  unfold decode decodeFamily0 decodeLowNibbleZero decodeFamily8 decodeFamilyE decodeFamilyF
  repeat' split
  all_goals simp

theorem decode_of_no_row_matches (h : ∀ r ∈ opcodeRows, r.matchesWord w = false) :
    decode w = .error (.unimplemented w) := by
  refine (decode_cases w).resolve_left ?_
  rintro ⟨i, hi⟩
  exact Bool.false_ne_true ((h _ (row_mem_opcodeRows i)).symm.trans (row_matchesWord_of_decode hi))

/-- Settles O3: the row of the decoded instruction matches, rows exclude each other, and each row's words decode. -/
theorem decodeFollowsOpcodeMap : Obligations.DecodeFollowsOpcodeMap := by
  intro w
  refine ⟨fun i hi => ?_, decode_of_no_row_matches, ?_⟩
  · have hmem := row_mem_opcodeRows i
    have hmatch := row_matchesWord_of_decode hi
    exact ⟨hmem, hmatch, fun r hr h => eq_of_matchesWord hr hmem h hmatch⟩
  · rintro ⟨r, hr, h⟩
    obtain ⟨i, -, rfl⟩ := List.mem_map.mp hr
    exact decodes_of_row_matchesWord h

end Sys2Proof

namespace Sys2Proof.Machine

/-- Settles O7: the word at `pc` is fetched and the decoder rejects it. -/
theorem unmatchedWordFaults : Obligations.UnmatchedWordFaults := by
  intro s hready hpc hnone
  have hdec := decode_of_no_row_matches hnone
  rw [step_of_coreReady hready]
  rcases runInstruction_cases s.turnUsed with ⟨hout, -⟩ | ⟨w, -, rfl, -, hr⟩ | ⟨w, i, -, rfl, hok, -⟩
  · exact absurd hout (not_le.mpr hpc)
  · exact hr
  · cases hdec.symm.trans hok

end Sys2Proof.Machine
end

section
/-! A core step by what lies at `pc`: an instruction to run, or an address beyond memory (R91 to R93). -/

namespace Sys2Proof.Machine

/-- R91, R93: the word at `pc` decodes, so the core advances `pc` and executes. -/
theorem runInstruction_of_decode {s : State} {i : Instr} (hpc : s.pc.toNat + 1 < memSize)
    (hdec : decode s.wordAtPc = .ok i) : runInstruction s = exec i (s.setPc (s.pc + 2)) := by
  have hword : s.mem.loadWord s.pc.toNat = .ok s.wordAtPc := loadWord_inside s.mem hpc
  simp only [runInstruction, hword, hdec]

/-- R92: a byte of the word at `pc` lies beyond memory, so the fetch faults. -/
theorem runInstruction_of_fetch_outside {s : State} (hpc : memSize ≤ s.pc.toNat + 1) :
    runInstruction s = raiseAtFetch s .outOfBounds none (some (max s.pc.toNat memSize)) := by
  simp only [runInstruction, loadWord_outside s.mem hpc]

/-- Settles O5: the enabled core runs the instruction that the word at `pc` decodes to. -/
theorem stepRunsDecodedInstruction : Obligations.StepRunsDecodedInstruction := by
  intro s i hready hpc hdec
  refine ⟨wordOfBytes_toNat _ _, ?_⟩
  rw [step_of_coreReady hready]
  exact runInstruction_of_decode (s := s.turnUsed) hpc hdec

/-- Settles O6: the enabled core fetches from beyond memory, and the fault's record is all it writes. -/
theorem fetchBeyondMemoryFaults : Obligations.FetchBeyondMemoryFaults := by
  intro s hready hpc
  rw [step_of_coreReady hready]
  exact runInstruction_of_fetch_outside (s := s.turnUsed) hpc

end Sys2Proof.Machine
end

section
/-! The display instructions: what drawing a sprite does to the machine, once and twice, and clearing the screen
(spec/41_display.md R105 to R114). -/

namespace Sys2Proof.Machine

variable {s t : State} {x y : Reg} {n : Nat} {ps : List Pixel}

/-! ### The pixels of a sprite -/

/-- The pixels toggled are the covered ones: a row of the sprite whose pixel is on the canvas is among the rows drawn. -/
theorem mem_spriteAt {p : Pixel} : p ∈ s.spriteAt x y n ↔ spriteCovers s x y n p := by
  have hcanvas := p.2.isLt
  rw [State.spriteAt, mem_spritePixels]
  simp only [length_bytesAt, getElem_bytesAt, rowsDrawn, originX, originY, spriteCovers]
  constructor
  · rintro ⟨r, hr, hrow, m, hm, hbit, hcol⟩
    refine ⟨r, by omega, 7 - m, by omega, hrow, hcol, ?_⟩
    rwa [Nat.sub_sub_self (Nat.le_of_lt_succ hm)]
  · rintro ⟨r, hr, j, hj, hrow, hcol, hbit⟩
    exact ⟨r, by omega, hrow, 7 - j, by omega, hbit, by omega⟩

/-- A sprite is determined by its place and its bytes. -/
theorem spriteAt_congr {s' : State} (hx : s'.getV x = s.getV x) (hy : s'.getV y = s.getV y) (hi : s'.i = s.i)
    (hmem : s'.mem = s.mem) : s'.spriteAt x y n = s.spriteAt x y n := by
  simp only [State.spriteAt, hx, hy, hi, hmem]

theorem pixel_eq_of_screen_eq (h : s.screen = t.screen) : s.pixel = t.pixel := by
  funext p
  rw [State.pixel, h, State.pixel]

/-! ### A drawing -/

/-- From `s` to `t` the pixels `ps` were toggled, VF tells whether one of them was on, the event lists them, and nothing
else changed (R108 to R110). -/
structure Draws (ps : List Pixel) (s t : State) : Prop where
  pixel : ∀ p, t.pixel p = if p ∈ ps then !s.pixel p else s.pixel p
  flag : t.getV 15 = flagByte (ps.any s.pixel)
  events : t.events = s.events ++ [.changed ps]
  frame : Frame { v := fun r => r == 15, screen := true, events := true } s t

/-- What DXYN does with a list of pixels without repeats is a drawing of them. -/
theorem draws_of_nodup (s : State) (h : ps.Nodup) :
    Draws ps s (((s.drawPixels false ps).1.setVF (flagByte (s.drawPixels false ps).2)).emit (.changed ps)) where
  pixel p := pixel_drawPixels s false h p
  flag := by
    rw [collided_drawPixels s false h, Bool.false_or]
    exact getV_setV_same _ vf _
  events := by rw [drawPixels_eq_setScreen]; rfl
  frame := by
    rw [drawPixels_eq_setScreen]
    exact { (WritesOnly.refl _ s).toFrame with
      v := (writesOnly_setV (s.setScreen _) vf _).v
      screen := nofun
      events := nofun }

/-- DXYN with its rows inside memory draws its sprite. -/
theorem exec_drw_draws (h : rowsDrawn n (originY (s.getV y)) = 0 ∨ s.i.toNat + rowsDrawn n (originY (s.getV y)) ≤ memSize) :
    ∃ t, exec (.drw x y n) s = .next t ∧ Draws (s.spriteAt x y n) s t :=
  ⟨_, exec_drw_inside h, draws_of_nodup s (spritePixels_nodup _ _ _)⟩

/-- Settles O25: by whether the rows to be drawn lie inside memory. -/
theorem drwTogglesSpritePixels : Obligations.DrwTogglesSpritePixels := by
  intro s x y n hn rows
  refine ⟨⟨Laws.EncodesRow.drw x y n, decode_encode (decide_eq_true hn)⟩, fun hinside => ?_, fun hrows houtside => ?_⟩
  · obtain ⟨t, hexec, hdraws⟩ := exec_drw_draws (x := x) hinside
    exact ⟨t, s.spriteAt x y n, hexec, fun _ => mem_spriteAt, spritePixels_ordered _ _ _, hdraws.pixel, hdraws.flag,
      hdraws.events, hdraws.frame⟩
  · exact raises_of_exec_eq_raise (exec_drw_outside hrows houtside)

/-! ### The same drawing twice -/

theorem flagByte_eq_one_iff {c : Bool} : flagByte c = 1 ↔ c = true := by
  cases c <;> decide

theorem flagByte_eq_zero_or_one (c : Bool) : flagByte c = 0 ∨ flagByte c = 1 := by
  cases c <;> decide

/-- A drawing turns on those of its pixels that were off. -/
theorem Draws.turnedOn_iff (h : Draws ps s t) {p : Pixel} :
    s.pixel p = false ∧ t.pixel p = true ↔ p ∈ ps ∧ t.pixel p = true := by
  rw [h.pixel p]
  by_cases hp : p ∈ ps
  · simp [hp]
  · simp [hp]

section

variable {s' u : State} (hfirst : Draws ps s t) (hscreen : s'.screen = t.screen) (hsecond : Draws ps s' u)
include hfirst hscreen hsecond

/-- The second drawing toggles back what the first toggled (R114). -/
theorem pixel_draws_twice (p : Pixel) : u.pixel p = s.pixel p := by
  rw [hsecond.pixel p, pixel_eq_of_screen_eq hscreen, hfirst.pixel p]
  by_cases hp : p ∈ ps
  · simp [hp]
  · simp [hp]

/-- The second drawing collides exactly with the pixels that the first turned on (R110, R114). -/
theorem flag_draws_twice : u.getV 15 = 1 ↔ ∃ p, s.pixel p = false ∧ t.pixel p = true := by
  rw [hsecond.flag, flagByte_eq_one_iff, pixel_eq_of_screen_eq hscreen, List.any_eq_true]
  exact exists_congr fun _ => hfirst.turnedOn_iff.symm

end

/-- Settles O26: both drawings toggle the same pixels. -/
theorem drawingTwiceRestoresScreen : Obligations.DrawingTwiceRestoresScreen := by
  intro s s' x y n h
  have hinside : rowsDrawn n (originY (s.getV y)) = 0 ∨ s.i.toNat + rowsDrawn n (originY (s.getV y)) ≤ memSize :=
    h.imp_left fun hn => by rw [hn, rowsDrawn, Nat.zero_min]
  obtain ⟨t, hexec, hfirst⟩ := exec_drw_draws (x := x) hinside
  refine ⟨t, hexec, fun hx hy hi hmem hscreen => ?_⟩
  rw [← hy, ← hi] at hinside
  obtain ⟨u, hexec', hsecond⟩ := exec_drw_draws (x := x) hinside
  rw [spriteAt_congr hx hy hi hmem] at hsecond
  refine ⟨u, hexec', pixel_draws_twice hfirst hscreen hsecond, flag_draws_twice hfirst hscreen hsecond, ?_⟩
  rw [hsecond.flag]
  exact flagByte_eq_zero_or_one _

/-! ### Clearing the screen -/

/-- Settles O24: the screen after it is the blank one. -/
theorem clsTurnsEveryPixelOff : Obligations.ClsTurnsEveryPixelOff := by
  refine ⟨⟨Laws.EncodesRow.cls, rfl⟩, fun s => ⟨_, rfl, blank_pixel s, rfl, ?_⟩⟩
  exact { (WritesOnly.refl _ s).toFrame with screen := nofun, events := nofun }

end Sys2Proof.Machine
end

section
/-! The families of register skips decode only a low nibble of 0 (R76, R130, R131). -/

namespace Sys2Proof

/-- `w & 0x000F` is the low nibble (R71). -/
theorem toNat_and_000F (w : Word) : (w &&& 0x000F).toNat = fieldN w := by
  rw [fieldN_eq, BitVec.toNat_and]
  exact Nat.and_two_pow_sub_one_eq_mod w.toNat 4

theorem decodeLowNibbleZero_of_and_000F {w : Word} (h : w &&& 0x000F ≠ 0) (i : Instr) :
    decodeLowNibbleZero w i = .error (.unimplemented w) := by
  refine if_neg fun hn => h (BitVec.eq_of_toNat_eq ?_)
  rw [toNat_and_000F, hn]
  rfl

/-- The opcode picks family 5 or 9, which rejects the low nibble (R76). -/
theorem decode_rejects_lowNibble {w : Word} (hfamily : w &&& 0xF000 = 0x5000 ∨ w &&& 0xF000 = 0x9000)
    (h : w &&& 0x000F ≠ 0) : decode w = .error (.unimplemented w) := by
  rcases hfamily with h5 | h9
  · have hop : (opcodeOf w).toNat = 0x5 := congrArg BitVec.toNat (opcodeOf_of_and_F000 h5)
    simp only [decode, hop, decodeLowNibbleZero_of_and_000F h]
  · have hop : (opcodeOf w).toNat = 0x9 := congrArg BitVec.toNat (opcodeOf_of_and_F000 h9)
    simp only [decode, hop, decodeLowNibbleZero_of_and_000F h]

end Sys2Proof
end

section
/-! Control transfer (spec/42_control_flow.md R120 to R136): jumps and skips set `pc` and nothing else, and returns unwind calls. -/

namespace Sys2Proof.Machine

/-! ### Jumps -/

/-- Settles O28: a 12-bit address is the same number as a `pc`. -/
theorem jpSetsPc : Obligations.JpSetsPc := fun s nnn =>
  ⟨⟨Laws.EncodesRow.jp nnn, decode_encode rfl⟩, _, rfl, toNat_setWidth_addr nnn, (writesOnly_setPc s _).toFrame⟩

/-- The sum of an address and a byte fits the 16-bit `pc`, so BNNN does not reduce it (R134). -/
theorem toNat_jumpTarget (s : State) (nnn : Addr12) :
    (s.jumpTarget nnn).toNat = nnn.toNat + (s.getV (s.jumpRegister nnn)).toNat := by
  have hnnn := nnn.isLt
  have hv := (s.getV (s.jumpRegister nnn)).isLt
  have hwide : ((s.getV (s.jumpRegister nnn)).setWidth 16 : Word).toNat = (s.getV (s.jumpRegister nnn)).toNat :=
    BitVec.toNat_setWidth_of_le (by decide)
  rw [State.jumpTarget, BitVec.toNat_add, toNat_setWidth_addr, hwide]
  exact Nat.mod_eq_of_lt (by omega)

theorem jumpRegister_old {s : State} (h : s.cfg.jump = .old) (nnn : Addr12) : s.jumpRegister nnn = 0 := by
  simp only [State.jumpRegister, h]

/-- Under NEW the register is the high digit of the address (R134). -/
theorem jumpRegister_new {s : State} (h : s.cfg.jump = .new) (nnn : Addr12) :
    s.jumpRegister nnn = Fin.ofNat 16 (nnn.toNat / 256) := by
  simp only [State.jumpRegister, h]
  apply Fin.ext
  simp [Nat.shiftRight_eq_div_pow]

/-- Settles O34, from the register that the toggle selects. -/
theorem jpOffAddsSelectedRegister : Obligations.JpOffAddsSelectedRegister := by
  refine fun s nnn => ⟨⟨Laws.EncodesRow.jpOff nnn, decode_encode rfl⟩, _, rfl, fun hold => ?_, fun hnew => ?_,
    (writesOnly_setPc s _).toFrame⟩
  · rw [← jumpRegister_old hold nnn]
    exact toNat_jumpTarget s nnn
  · rw [← jumpRegister_new hnew nnn]
    exact toNat_jumpTarget s nnn

/-! ### Skips -/

theorem pc_skipIf_beq (s : State) (a b : Byte) : (s.skipIf (a == b)).pc = if a = b then s.pc + 2 else s.pc := by
  simp only [skipIf_eq, setPc_pc, beq_iff_eq]

theorem pc_skipIf_bne (s : State) (a b : Byte) : (s.skipIf (a != b)).pc = if a = b then s.pc else s.pc + 2 := by
  simp only [skipIf_eq, setPc_pc, bne_iff_ne, ite_not]

/-- Settles O32: both are a skip by a comparison with NN. -/
theorem skipsOnImmediate : Obligations.SkipsOnImmediate := fun s x nn =>
  ⟨⟨Laws.EncodesRow.seVxNn x nn, decode_encode rfl⟩, ⟨Laws.EncodesRow.sneVxNn x nn, decode_encode rfl⟩,
    ⟨_, rfl, pc_skipIf_beq s _ _, (writesOnly_skipIf s _).toFrame⟩,
    ⟨_, rfl, pc_skipIf_bne s _ _, (writesOnly_skipIf s _).toFrame⟩⟩

/-- Settles O33: both are a skip by a comparison with VY, and their families reject a nonzero low nibble. -/
theorem skipsOnRegisters : Obligations.SkipsOnRegisters :=
  ⟨fun s x y => ⟨⟨Laws.EncodesRow.seVxVy x y, decode_encode rfl⟩, ⟨Laws.EncodesRow.sneVxVy x y, decode_encode rfl⟩,
    ⟨_, rfl, pc_skipIf_beq s _ _, (writesOnly_skipIf s _).toFrame⟩,
    ⟨_, rfl, pc_skipIf_bne s _ _, (writesOnly_skipIf s _).toFrame⟩⟩,
  fun _ => decode_rejects_lowNibble⟩

/-! ### Calls and returns -/

/-- Settles O30: by whether the stack has an entry. -/
theorem retPopsReturnAddress : Obligations.RetPopsReturnAddress := by
  refine ⟨⟨Laws.EncodesRow.ret, rfl⟩, fun s => ⟨fun top rest hstack => ?_, fun hempty => ?_⟩⟩
  · exact ⟨_, exec_ret_pop hstack, rfl, rfl, { (WritesOnly.refl _ s).toFrame with pc := nofun, stack := nofun }⟩
  · have hraise := exec_ret_empty hempty
    refine ⟨raises_of_exec_eq_raise hraise, fun t ht => ?_⟩
    cases hraise.symm.trans ht
    exact ⟨rfl, hempty⟩

/-- Calls leave their return addresses on the stack, the last call's on top (R124). -/
theorem stack_of_calls {addrs : List Word} {s t : State} (h : Calls addrs s t) :
    t.stack = (addrs.map (· + 2)).reverse ++ s.stack := by
  induction addrs generalizing s with
  | nil => exact h
  | cons a rest ih =>
    obtain ⟨s₁, s₂, nnn, hstack, hpc, hroom, hcall, hrest⟩ := h
    cases (exec_call_push nnn hroom).symm.trans hcall
    rw [ih hrest, setPc_stack, setStack_stack, hpc, hstack]
    simp

/-- Returns can go to the entries on top of the stack, in their order (R120). -/
theorem exists_returns {pcs rest : List Word} {s : State} (h : s.stack = pcs ++ rest) : ∃ u, Returns pcs s u := by
  induction pcs generalizing s with
  | nil => exact ⟨s, rfl⟩
  | cons p ps ih =>
    obtain ⟨u, hu⟩ := ih (s := (s.setPc p).setStack (ps ++ rest)) rfl
    exact ⟨u, s, _, rfl, by simp [h], exec_ret_pop h, rfl, hu⟩

/-- Returns go only to the entries on top of the stack, and take them off (R120). -/
theorem stack_of_returns {pcs : List Word} {s u : State} (h : Returns pcs s u) : s.stack = pcs ++ u.stack := by
  induction pcs generalizing s with
  | nil => exact h.symm
  | cons p ps ih =>
    obtain ⟨s₁, s₂, hstack, hne, hret, hpc, hrest⟩ := h
    obtain ⟨top, rest, hcons⟩ := List.exists_cons_of_ne_nil hne
    cases (exec_ret_pop hcons).symm.trans hret
    have htop : top = p := hpc
    have htail : rest = ps ++ u.stack := ih hrest
    rw [← hstack, hcons, htop, htail, List.cons_append]

/-- Settles O31: the calls push what the returns pop, so the two readings of the stack after the calls agree. -/
theorem returnsUnwindCalls : Obligations.ReturnsUnwindCalls := by
  intro addrs s t hcalls
  have hstack := stack_of_calls hcalls
  refine ⟨exists_returns hstack, fun pcs u hlen hreturns => ?_⟩
  have hboth : pcs ++ u.stack = (addrs.map (· + 2)).reverse ++ s.stack := (stack_of_returns hreturns).symm.trans hstack
  exact List.append_inj hboth (by simpa using hlen)

end Sys2Proof.Machine
end

section
/-! Register and ALU instructions (spec/43_alu.md R140 to R165): a write to VX, or a result to VX and then a flag to VF. -/

namespace Sys2Proof.Machine

/-- A well-formed instruction is encoded by its own row of the opcode map (R72, R86). -/
theorem encodedAs_row {i : Instr} (h : i.wellFormed = true) : EncodedAs i i.row.mask i.row.pattern :=
  ⟨encode_and_row_mask i, decode_encode h⟩

/-! ### One write to VX -/

/-- Settles O36: each is one write to VX. -/
theorem loadsWriteTheirRegister : Obligations.LoadsWriteTheirRegister := fun s x y nn =>
  ⟨encodedAs_row rfl, encodedAs_row rfl,
    ⟨_, rfl, getV_setV_same s x nn, (writesOnly_setV s x nn).toFrame⟩,
    ⟨_, rfl, getV_setV_same s x (s.getV y), (writesOnly_setV s x (s.getV y)).toFrame⟩⟩

/-- Settles O37: addition of bytes is addition modulo 256 (R167). -/
theorem addImmediateWrapsWithoutFlag : Obligations.AddImmediateWrapsWithoutFlag := by
  refine fun s x nn => ⟨encodedAs_row rfl, _, rfl, ?_, (writesOnly_setV s x _).toFrame⟩
  rw [getV_setV_same]
  exact BitVec.toNat_add _ _

/-- Settles O38: the operations on bytes act on each bit. -/
theorem logicIsBitwiseWithoutFlag : Obligations.LogicIsBitwiseWithoutFlag := by
  refine fun s x y => ⟨encodedAs_row rfl, encodedAs_row rfl, encodedAs_row rfl,
    ⟨_, rfl, (writesOnly_setV s x _).toFrame, fun k _ => ?_⟩,
    ⟨_, rfl, (writesOnly_setV s x _).toFrame, fun k _ => ?_⟩,
    ⟨_, rfl, (writesOnly_setV s x _).toFrame, fun k _ => ?_⟩⟩
  · rw [getV_setV_same, BitVec.getLsbD_or]
  · rw [getV_setV_same, BitVec.getLsbD_and]
  · rw [getV_setV_same, BitVec.getLsbD_xor]

/-- Counting a draw touches no register (R163). -/
theorem getV_randomAnd_same (s : State) (r : Byte) (x : Reg) (nn : Byte) : (s.randomAnd r x nn).getV x = r &&& nn :=
  getV_setV_same s x (r &&& nn)

/-- Settles O42: the byte drawn is masked bit by bit. -/
theorem rndMasksDrawnByte : Obligations.RndMasksDrawnByte := by
  refine fun s x nn => ⟨encodedAs_row rfl, _, rfl, rfl, fun k _ => ?_,
    { (writesOnly_setV s x _).toFrame with draws := nofun }⟩
  rw [getV_randomAnd_same, BitVec.getLsbD_and]

/-! ### A result to VX, then a flag to VF -/

/-- An instruction that writes a result and then a flag: VX holds the result unless it is VF, VF holds the flag, and
nothing else changed (R21, R99). -/
theorem resultThenFlag_of_exec {i : Instr} {s : State} {x : Reg} {result flag : Byte} {r f : Nat}
    (hexec : exec i s = .next (s.setResultThenFlag x result flag)) (hresult : result.toNat = r) (hflag : flag.toNat = f) :
    ∃ t, exec i s = .next t ∧ (x ≠ 15 → (t.getV x).toNat = r) ∧ (t.getV 15).toNat = f ∧
      Frame { v := fun y => y == x || y == 15 } s t := by
  refine ⟨_, hexec, fun hx => ?_, ?_, (writesOnly_setResultThenFlag s x result flag).toFrame⟩
  · rw [getV_setResultThenFlag, if_neg (show x ≠ vf from hx), if_pos rfl, hresult]
  · rw [getV_setResultThenFlag, if_pos (show 15 = vf from rfl), hflag]

/-- A flag is 1 or 0 (R33). -/
theorem toNat_flagByte (p : Prop) [Decidable p] : (flagByte (decide p)).toNat = if p then 1 else 0 := by
  by_cases h : p
  · simp [flagByte, h]
  · simp [flagByte, h]

/-- Subtraction of bytes is subtraction modulo 256 (R167). -/
theorem toNat_sub_byte (a b : Byte) : (a - b).toNat = (256 + a.toNat - b.toNat) % 256 := by
  have hb := b.isLt
  rw [BitVec.toNat_sub]
  congr 1
  omega

/-- Settles O39: the sum, then the carry. -/
theorem addRegistersReportsCarry : Obligations.AddRegistersReportsCarry := fun _ _ _ =>
  ⟨encodedAs_row rfl, resultThenFlag_of_exec rfl (BitVec.toNat_add _ _) (toNat_flagByte _)⟩

/-- Settles O40: the difference, then whether there was no borrow, for both orders of the operands. -/
theorem subtractionsReportNoBorrow : Obligations.SubtractionsReportNoBorrow := fun _ _ _ =>
  ⟨encodedAs_row rfl, encodedAs_row rfl, resultThenFlag_of_exec rfl (toNat_sub_byte _ _) (toNat_flagByte _),
    resultThenFlag_of_exec rfl (toNat_sub_byte _ _) (toNat_flagByte _)⟩

/-- The toggle selects the register that is shifted (R30). -/
theorem shiftSource_eq (s : State) (x y : Reg) :
    s.shiftSource x y = if s.cfg.shift = .old then s.getV y else s.getV x := by
  unfold State.shiftSource
  cases s.cfg.shift
  · rfl
  · rfl

/-- A shift's flag is bit 0 of the byte (conflict C3). -/
theorem toNat_shiftFlag (b : Byte) : (shiftFlag b).toNat = b.toNat % 2 := by
  rw [shiftFlag, BitVec.toNat_and]
  exact Nat.and_one_is_mod b.toNat

theorem toNat_ushiftRight_one (b : Byte) : (b >>> 1).toNat = b.toNat / 2 := by
  rw [BitVec.toNat_ushiftRight, Nat.shiftRight_one]

theorem toNat_shiftLeft_one (b : Byte) : (b <<< 1).toNat = b.toNat * 2 % 256 := by
  rw [BitVec.toNat_shiftLeft, Nat.shiftLeft_eq, Nat.pow_one]

/-- Settles O41: the shifted source, then bit 0 of the old VX, in both directions. -/
theorem shiftsReportLowBitOfVx : Obligations.ShiftsReportLowBitOfVx := by
  refine fun s x y => ⟨encodedAs_row rfl, encodedAs_row rfl, ?_⟩
  rw [← shiftSource_eq]
  exact ⟨resultThenFlag_of_exec rfl (toNat_ushiftRight_one _) (toNat_shiftFlag _),
    resultThenFlag_of_exec rfl (toNat_shiftLeft_one _) (toNat_shiftFlag _)⟩

end Sys2Proof.Machine
end

section
/-! Index register and memory instructions (spec/44_index_memory.md R170 to R186): the values they write to `I`, the block in memory
they store or load, and their frames. -/

namespace Sys2Proof.Machine

/-- An instruction that answers a next state with `pc` as it was took no fault, since a fault puts `pc` back at the instruction
(R214); so it wrote only what it may write. -/
theorem frame_of_exec_keepsPc {i : Instr} {s t : State} (h : exec i s = .next t) (hpc : t.pc = s.pc) :
    Frame (writtenBy i s) s t := by
  rcases writesOnly_of_exec h with ⟨cause, addr, key, rfl⟩ | hwrites
  · have hback : s.pc - 2 = s.pc := hpc
    bv_omega
  · exact hwrites.toFrame

/-! ### The index register -/

theorem toNat_indexOf (n : Nat) : (indexOf n).toNat = n % 0x1000 := by
  rw [indexOf, BitVec.toNat_ofNat]
  omega

/-- Under `cfg.index_increment = OLD`, FX55 and FX65 leave `I` past their block (R170, decision D10). -/
theorem toNat_indexAfter_old {s : State} (x : Reg) (h : s.cfg.indexIncrement = .old) :
    (s.indexAfter x).toNat = (s.i.toNat + x.val + 1) % 0x1000 := by
  simp only [State.indexAfter, h, toNat_indexOf]

/-- With a legal `FONT_BASE` a glyph's address fits `I` (R8, R178). -/
theorem toNat_glyphAddress {s : State} (h : s.cfg.wf = true) (b : Byte) :
    (s.glyphAddress b).toNat = b.toNat % 16 * 5 + s.cfg.fontBase := by
  have hfont := fontBase_le h
  have hlow : (b &&& 0x0F).toNat = b.toNat % 16 := Nat.and_two_pow_sub_one_eq_mod b.toNat 4
  rw [State.glyphAddress, BitVec.toNat_ofNat, hlow]
  exact Nat.mod_eq_of_lt (by omega)

/-- Settles O43: a 12-bit address is the same number in `I`. -/
theorem ldIndexSetsI : Obligations.LdIndexSetsI := fun s nnn =>
  ⟨encodedAs_row rfl, _, rfl, toNat_setWidth_addr nnn, (writesOnly_setI s _).toFrame⟩

/-- Settles O44: by whether FX1E reports an overflow, which is the only case in which it writes VF. -/
theorem addIndexWrapsAndReportsOverflow : Obligations.AddIndexWrapsAndReportsOverflow := by
  refine fun s x => ⟨encodedAs_row rfl, ?_⟩
  have hexec := exec_addIVx s x
  cases ho : s.reportsOverflow x with
  | true =>
    rw [ho, if_pos rfl] at hexec
    exact ⟨_, hexec, toNat_indexOf _, fun _ _ => getV_setV_same _ vf 1, frame_of_exec_keepsPc hexec rfl⟩
  | false =>
    rw [ho, if_neg Bool.false_ne_true] at hexec
    refine ⟨_, hexec, toNat_indexOf _, fun hnew hover => ?_, frame_of_exec_keepsPc hexec rfl⟩
    simp [State.reportsOverflow, indexOverflows, hnew, hover] at ho

/-- Settles O45: the low nibble is at most 15, so the last glyph is 75 bytes after `FONT_BASE`. -/
theorem ldFontPointsAtGlyph : Obligations.LdFontPointsAtGlyph := by
  intro s x hcfg
  have hi := toNat_glyphAddress hcfg (s.getV x)
  exact ⟨encodedAs_row rfl, _, rfl, hi, hi.trans_le (by omega), (writesOnly_setI s _).toFrame⟩

/-! ### Blocks of memory -/

/-- A decimal digit of a byte is stored as itself: it fits a byte (R181). -/
theorem toNat_ofNat_digit {n : Nat} (h : n < 10) : (BitVec.ofNat 8 n).toNat = n := by
  rw [BitVec.toNat_ofNat]
  exact Nat.mod_eq_of_lt (by omega)

/-- FX33 leaves each of the three digits at its place (R181). -/
theorem byteAt_setBytes_bcdDigits {m : Memory} (hw : m.wf = true) {a : Nat} (b : Byte) (ha : a + 2 < memSize)
    (k : Nat) (hk : k < 3) : (m.setBytes a (bcdDigits b)).byteAt (a + k) = (bcdDigits b)[k]'hk :=
  byteAt_setBytes_same (l := bcdDigits b) hw k hk (by omega)

/-- Settles O46: by whether the three digits fit memory. -/
theorem ldBcdStoresDigits : Obligations.LdBcdStoresDigits := by
  refine fun s x hw => ⟨encodedAs_row rfl, fun hin => ?_, fun hout =>
    raises_of_exec_eq_raise (exec_ldBVx_outside (Nat.lt_succ_of_le hout))⟩
  have hexec := exec_ldBVx_inside (s := s) (x := x) hin
  have hstored := byteAt_setBytes_bcdDigits hw (s.getV x) hin
  have hv := (s.getV x).isLt
  refine ⟨_, hexec, ?_, ?_, ?_, frame_of_exec_keepsPc hexec rfl⟩
  · exact (congrArg BitVec.toNat (hstored 0 (by decide))).trans (toNat_ofNat_digit (by omega))
  · exact (congrArg BitVec.toNat (hstored 1 (by decide))).trans (toNat_ofNat_digit (by omega))
  · exact (congrArg BitVec.toNat (hstored 2 (by decide))).trans (toNat_ofNat_digit (by omega))

/-- FX55 leaves each of V0 to VX at its place in a block that lies inside memory (R184). -/
theorem byteAt_setBytes_firstV {s : State} (hw : s.mem.wf = true) {a : Nat} {x k : Reg} (ha : a + x.val < memSize)
    (hk : k ≤ x) : (s.mem.setBytes a (s.firstV (x.val + 1))).byteAt (a + k) = s.getV k := by
  have hk' : k.val ≤ x.val := hk
  exact (byteAt_setBytes_same hw k.val (by rw [length_firstV_reg]; omega) (by omega)).trans (getElem_firstV s _ k.val _)

/-- FX65 loads each of V0 to VX from its place in the block (R186). -/
theorem getV_loadV_bytesAt {s : State} (a : Nat) {x k : Reg} (hk : k ≤ x) :
    (s.loadV (s.mem.bytesAt a (x.val + 1))).getV k = s.mem.byteAt (a + k) := by
  have hlen : k.val < (s.mem.bytesAt a (x.val + 1)).length := by
    rw [length_bytesAt]
    exact Nat.lt_succ_of_le hk
  rw [getV_loadV, List.getD_eq_getElem _ _ hlen, getElem_bytesAt]

/-- Settles O47: by whether the block fits memory. -/
theorem storeRegistersWritesBlock : Obligations.StoreRegistersWritesBlock := by
  refine fun s x hw => ⟨encodedAs_row rfl, fun hin => ?_, fun hout =>
    raises_of_exec_eq_raise (exec_ldMiVx_outside (Nat.lt_succ_of_le hout))⟩
  have hexec := exec_ldMiVx_inside (s := s) (x := x) hin
  exact ⟨_, hexec, fun _ => byteAt_setBytes_firstV hw hin, toNat_indexAfter_old x, frame_of_exec_keepsPc hexec rfl⟩

/-- Settles O48: by whether the block lies inside memory. -/
theorem loadRegistersReadsBlock : Obligations.LoadRegistersReadsBlock := by
  refine fun s x => ⟨encodedAs_row rfl, fun hin => ?_, fun hout =>
    raises_of_exec_eq_raise (exec_ldVxMi_outside (Nat.lt_succ_of_le hout))⟩
  have hexec := exec_ldVxMi_inside (s := s) (x := x) hin
  exact ⟨_, hexec, fun _ => getV_loadV_bytesAt _, toNat_indexAfter_old x, frame_of_exec_keepsPc hexec rfl⟩

end Sys2Proof.Machine
end

section
/-! Keypad and timer instructions, and the timer's ticks (spec/45_keypad_timers.md R190 to R207). -/

namespace Sys2Proof.Machine

/-! ### The tick -/

theorem toNat_countDown (b : Byte) : (countDown b).toNat = b.toNat - 1 := by
  unfold countDown
  split
  · subst b; rfl
  · bv_omega

/-- The timer's turn asks nothing of the core: it happens halted or not (R205). -/
theorem step_tick {s : State} (h : s.nextTurn = .tick) : step s = .next s.turnUsed.tick :=
  step_of_nextTurn h

/-- Settles O11: the step is `tick` after the turn is used up. -/
theorem tickDecrementsTimers : Obligations.TickDecrementsTimers := fun s hturn =>
  ⟨_, step_tick hturn, toNat_countDown s.dt, toNat_countDown s.st, rfl⟩

/-- Settles O12, by induction on the number of ticks: the first takes one from each timer and leaves the others at the head of
the schedule. -/
theorem ticksCountTimersDown : Obligations.TicksCountTimersDown := by
  intro n
  induction n with
  | zero => exact fun s rest hsched => ⟨s, rfl, rfl, rfl, hsched⟩
  | succ n ih =>
    intro s rest hsched
    rw [List.replicate_succ, List.cons_append] at hsched
    have hturn : s.nextTurn = .tick := by rw [State.nextTurn, hsched, List.headD_cons]
    have hleft : s.turnUsed.tick.schedule = List.replicate n .tick ++ rest := congrArg List.tail hsched
    obtain ⟨t, hrun, hdt, hst, hrest⟩ := ih s.turnUsed.tick rest hleft
    refine ⟨t, (run_next (step_tick hturn)).trans hrun, ?_, ?_, hrest⟩
    · rw [hdt, tick_dt, toNat_countDown, turnUsed_dt, Nat.sub_sub, Nat.add_comm]
    · rw [hst, tick_st, toNat_countDown, turnUsed_st, Nat.sub_sub, Nat.add_comm]

/-! ### The timers and the registers -/

/-- Settles O55: FX07 is one write to VX. -/
theorem readDelayTimer : Obligations.ReadDelayTimer := fun s x =>
  ⟨encodedAs_row rfl, _, rfl, getV_setV_same s x s.dt, (writesOnly_setV s x s.dt).toFrame⟩

/-- Settles O56: each is one write to its timer. -/
theorem writeTimers : Obligations.WriteTimers := fun _ x =>
  ⟨encodedAs_row rfl, encodedAs_row rfl,
    ⟨_, rfl, rfl, frame_of_exec_keepsPc (i := .ldDtVx x) rfl rfl⟩,
    ⟨_, rfl, rfl, frame_of_exec_keepsPc (i := .ldStVx x) rfl rfl⟩⟩

/-! ### The keys -/

theorem keyIndex_of_toNat_eq {b : Byte} {k : Key} (h : b.toNat = k.val) : keyIndex b = some k := by
  rw [keyIndex, dif_pos (h ▸ k.isLt)]
  exact congrArg some (Fin.ext h)

/-- Above 0xF there is no key (R194, decision D13). -/
theorem keyIndex_of_above {b : Byte} (h : 0xF < b.toNat) : keyIndex b = none :=
  dif_neg (not_lt.mpr h)

/-- Settles O52: by whether VX names a key. -/
theorem keySkipsReadSnapshot : Obligations.KeySkipsReadSnapshot := by
  refine fun s x => ⟨encodedAs_row rfl, encodedAs_row rfl, fun k hk => ?_, fun habove => ?_⟩
  · have hkey := keyIndex_of_toNat_eq hk
    refine ⟨⟨_, exec_skp_key hkey, ?_, (writesOnly_skipIf s _).toFrame⟩,
      ⟨_, exec_sknp_key hkey, ?_, (writesOnly_skipIf s _).toFrame⟩⟩
    · rw [skipIf_eq, setPc_pc]
    · rw [skipIf_eq, setPc_pc]
      cases s.keys[k] <;> rfl
  · have hnone := keyIndex_of_above habove
    exact ⟨raises_of_exec_eq_raise (exec_skp_noKey hnone), raises_of_exec_eq_raise (exec_sknp_noKey hnone)⟩

/-- Each key stands at its own number in the list that FX0A searches. -/
theorem getElem_allKeys : ∀ k : Key, allKeys[k.val]'k.isLt = k := by decide

/-- FX0A finds the lowest key down: the search meets every lower key first (R198). -/
theorem firstKeyDown_eq_some {s : State} {k : Key} (hdown : s.keys[k] = true)
    (hlower : ∀ j : Key, j < k → s.keys[j] = false) : s.firstKeyDown = some k := by
  refine List.find?_eq_some_iff_getElem.mpr ⟨hdown, k.val, k.isLt, getElem_allKeys k, fun j hj => ?_⟩
  have hlt : allKeys[j]'(hj.trans k.isLt) < k := (getElem_allKeys ⟨j, hj.trans k.isLt⟩).trans_lt hj
  exact congrArg not (hlower _ hlt)

/-- Settles O53: by whether the search finds a key; the number of a key fits a byte. -/
theorem keyWaitTakesLowestKey : Obligations.KeyWaitTakesLowestKey := by
  refine fun s x => ⟨encodedAs_row rfl, fun k hdown hlower => ?_, fun hup => ?_⟩
  · refine ⟨_, exec_ldVxK_key x (firstKeyDown_eq_some hdown hlower), ?_, (writesOnly_setV s x _).toFrame⟩
    rw [getV_setV_same, BitVec.toNat_ofNat]
    exact Nat.mod_eq_of_lt (k.isLt.trans (by decide))
  · exact ⟨_, exec_ldVxK_wait x (firstKeyDown_eq_none hup), rfl, (writesOnly_setPc s _).toFrame⟩

end Sys2Proof.Machine
end

section
/-! Faults, quit and load errors: the fault of every core step is precise, a quit request stops the core, and what a boot leaves
in memory (spec/60_exceptions.md R211 to R214, R222; R240, R242). -/

namespace Sys2Proof.Machine

/-! ### Precise faults -/

/-- The word of the record (R213, decision D16): the one at `pc`, if both its bytes lie inside memory. -/
def State.fetchedWord (s : State) : Option Word := if s.pc.toNat + 1 < memSize then some s.wordAtPc else none

/-- A fault inside the instruction at `pc` records the word that was decoded to it, for `encode` gives that word back (R79). -/
theorem faultedIn_advanced_record {i : Instr} {s t : State} (hdec : decode s.wordAtPc = .ok i)
    (h : FaultedIn i s.advanced t) :
    ∃ r, t = { s.turnUsed with halted := .faulted r } ∧ r.pc = s.pc ∧ r.instruction = some s.wordAtPc := by
  obtain ⟨cause, addr, key, rfl⟩ := h
  have hpc : s.advanced.pc - 2 = s.pc := BitVec.add_sub_cancel s.pc 2
  rw [hpc, encode_of_decode hdec]
  exact ⟨_, rfl, rfl, rfl⟩

/-- A core step of an enabled core either is a precise fault, whose record names `pc` and the word fetched, or leaves the core
running (R213, R214). -/
theorem preciseFault_or_running {s t : State} (hready : s.CoreReady) (h : step s = .next t) :
    (∃ r, t = { s.turnUsed with halted := .faulted r } ∧ r.pc = s.pc ∧ r.instruction = s.fetchedWord) ∨
      t.halted = .running := by
  rw [step_of_coreReady hready] at h
  rcases runInstruction_cases s.turnUsed with ⟨hout, hr⟩ | ⟨w, hpc, rfl, -, hr⟩ | ⟨w, i, hpc, rfl, hdec, hr⟩
  · cases h.symm.trans hr
    exact .inl ⟨_, rfl, rfl, (if_neg (not_lt.mpr hout)).symm⟩
  · cases h.symm.trans hr
    exact .inl ⟨_, rfl, rfl, (if_pos hpc).symm⟩
  · rcases writesOnly_of_exec (hr.symm.trans h) with hfault | hframe
    · have hfetched : s.fetchedWord = some s.wordAtPc := if_pos hpc
      rw [hfetched]
      exact .inl (faultedIn_advanced_record hdec hfault)
    · exact .inr (hframe.halted.trans hready.running)

/-- Settles O8: a step that leaves the core halted is the precise fault, for any other leaves it running. -/
theorem faultsArePrecise : Obligations.FaultsArePrecise := by
  intro s t r hready h hhalted
  rcases preciseFault_or_running hready h with ⟨r', rfl, hpc, hword⟩ | hrun
  · cases hhalted
    exact ⟨rfl, hpc, hword⟩
  · cases hhalted.symm.trans hrun

/-! ### The quit request -/

/-- Settles O10: the core's turn first looks for the request, and no other agent withdraws it or writes what the statement
names. -/
theorem quitEndsCoreSteps : Obligations.QuitEndsCoreSteps := by
  intro s
  have hstops : s.quit = true → s.nextTurn = .core → step s = .fault .quitRequested := fun hquit hturn =>
    (step_of_nextTurn hturn).trans (if_pos hquit)
  refine ⟨step_of_nextTurn, hstops, fun hquit t h => ?_⟩
  rcases step_cases h with ⟨hturn, -⟩ | ⟨-, rfl⟩ | ⟨k, -, rfl⟩ | ⟨-, rfl⟩ | ⟨-, rfl⟩
  · cases (hstops hquit hturn).symm.trans h
  · exact ⟨hquit, rfl, rfl, rfl⟩
  · exact ⟨hquit, rfl, rfl, rfl⟩
  · exact ⟨rfl, rfl, rfl, rfl⟩
  · exact ⟨hquit, rfl, rfl, rfl⟩

/-! ### The image in memory -/

/-- Before the font is copied every byte is 0: the default font is overwritten, and nothing lies outside it (R240). -/
theorem byteAt_memoryZero (a : Nat) : Memory.zero.byteAt a = 0 := by
  by_cases hfont : 0x050 ≤ a ∧ a < 0x0A0
  · obtain ⟨k, rfl⟩ := Nat.exists_eq_add_of_le hfont.1
    have hk : k < (List.replicate 80 (0 : Byte)).length := by rw [List.length_replicate]; omega
    have hin : 0x050 + k < memSize := by unfold memSize; omega
    exact (byteAt_setBytes_same empty_wf k hk hin).trans (List.getElem_replicate hk)
  · have hout : a < 0x050 ∨ 0x0A0 ≤ a := by omega
    exact (byteAt_setBytes_other Memory.empty _ hout).trans (resetByte_outside hout)

/-- The font copied at startup is all that differs from 0 (R240, R241). -/
theorem byteAt_bootMemory_outside {p : Params} {a : Nat} (h : a < p.fontBase ∨ p.fontBase + 80 ≤ a) :
    (bootMemory p).byteAt a = 0 := by
  rw [bootMemory, byteAt_setBytes_other _ _ (by rwa [Vector.length_toList]), byteAt_memoryZero]

/-- An image that fits is loaded (R242). -/
theorem loadRom_fits (m : Memory) {rom : List Byte} (h : rom.length ≤ 3584) :
    m.loadRom rom = .ok (m.setBytes programStart rom) :=
  if_neg (not_lt.mpr h)

/-- An image that does not fit is a load error (R212, R242). -/
theorem loadRom_tooLarge (m : Memory) {rom : List Byte} (h : 3584 < rom.length) : m.loadRom rom = .error .romTooLarge :=
  if_pos h

/-- Settles O17: by whether the image fits; its bytes end within memory, and elsewhere memory is what the font left. -/
theorem bootLoadsRom : Obligations.BootLoadsRom := by
  refine fun p rom _ => ⟨fun hfits => ?_, fun hlong => ?_, rfl⟩
  · refine ⟨{ State.reset with cfg := p, mem := (bootMemory p).setBytes programStart rom }, ?_, rfl, fun k hk => ?_,
      fun a hfont hrom => ?_⟩
    · simp only [State.boot, loadRom_fits _ hfits]
    · exact byteAt_setBytes_same (bootMemory_wf p) k hk (by unfold programStart memSize; omega)
    · exact (byteAt_setBytes_other _ rom hrom).trans (byteAt_bootMemory_outside hfont)
  · simp only [State.boot, loadRom_tooLarge _ hlong]

end Sys2Proof.Machine
end

section
/-! The font and the empty image at startup, and the park: a jump to its own address (spec/70_reset_and_hazards.md R240 to
R242, R250). -/

namespace Sys2Proof.Machine

/-! ### Startup -/

/-- The font is copied whole, for it ends below the program (R8, R240, R241). -/
theorem byteAt_bootMemory_font {p : Params} (hp : p.wf = true) (k : Fin 80) :
    (bootMemory p).byteAt (p.fontBase + k) = p.fontData[k] := by
  have hfont := fontBase_le hp
  have hin : p.fontBase + k.val < memSize := by unfold memSize; omega
  have hk : k.val < p.fontData.toList.length := by rw [Vector.length_toList]; exact k.isLt
  exact (byteAt_setBytes_same (setBytes_wf empty_wf _ _) k.val hk hin).trans (Vector.getElem_toList hk)

/-- Loading an image writes no byte below the program (R242). -/
theorem byteAt_loadRom_below {m m' : Memory} {rom : List Byte} (h : m.loadRom rom = .ok m') {a : Nat}
    (ha : a < programStart) : m'.byteAt a = m.byteAt a := by
  rcases Nat.lt_or_ge 3584 rom.length with hlong | hfits
  · cases (loadRom_tooLarge m hlong).symm.trans h
  · cases (loadRom_fits m hfits).symm.trans h
    exact byteAt_setBytes_other m rom (.inl ha)

/-- Settles O16: the font is in memory before the image is loaded, and the image lies above it. -/
theorem bootLoadsFont : Obligations.BootLoadsFont := by
  intro p rom s hp hboot k
  obtain ⟨m, hm, rfl⟩ := boot_ok hboot
  have hbelow : p.fontBase + k.val < programStart := by
    have := fontBase_le hp
    unfold programStart
    omega
  exact (byteAt_loadRom_below hm hbelow).trans (byteAt_bootMemory_font hp k)

/-- The word of two zero bytes is in no row of the opcode map (R86, decision D30). -/
theorem zeroWord_matches_no_row : ∀ r ∈ opcodeRows, r.matchesWord (wordOfBytes 0 0) = false := by decide

/-- Settles O18: the empty image leaves 0 at 0x200 and 0x201, and the core rejects that word. -/
theorem emptyRomFaultsAtFirstStep : Obligations.EmptyRomFaultsAtFirstStep := by
  obtain ⟨hfits, -, -⟩ := bootLoadsRom defaultParams [] (by decide)
  obtain ⟨s, hboot, hs, -, hzero⟩ := hfits (Nat.zero_le _)
  have hready : s.CoreReady := by rw [hs]; exact ⟨rfl, rfl, rfl⟩
  have hpc : s.pc = 0x200 := by rw [hs]; rfl
  have hhigh : s.mem.byteAt s.pc.toNat = 0 := by rw [hpc]; exact hzero 0x200 (.inr (by decide)) (.inr (by decide))
  have hlow : s.mem.byteAt (s.pc.toNat + 1) = 0 := by rw [hpc]; exact hzero 0x201 (.inr (by decide)) (.inr (by decide))
  have hstep := unmatchedWordFaults s hready (by rw [hpc]; decide)
  rw [hhigh, hlow, hpc] at hstep
  exact ⟨s, _, hboot, hstep zeroWord_matches_no_row, rfl⟩

/-! ### The park -/

/-- The word of a jump is its opcode over its address (R72, R86). -/
theorem encode_jp_eq_or (nnn : Addr12) : encode (.jp nnn) = 0x1000 ||| nnn.setWidth 16 := rfl

/-- A park needs what the core reads there only: the halt state, `pc` and memory. -/
theorem State.Park.congr {s t : State} (h : s.Park) (hhalted : t.halted = s.halted := by rfl) (hpc : t.pc = s.pc := by rfl)
    (hmem : t.mem = s.mem := by rfl) : t.Park where
  running := hhalted.trans h.running
  pc_bounded := hpc ▸ h.pc_bounded
  self_jump := by rw [hmem, hpc]; exact h.self_jump

/-- The jump of a park leads back to the state it was fetched in (R250). -/
theorem runInstruction_of_park {s : State} (h : s.Park) : runInstruction s = .next s := by
  have haddr : (s.pc.setWidth 12 : Addr12).setWidth 16 = s.pc := by
    have := h.pc_bounded
    apply BitVec.eq_of_toNat_eq
    rw [toNat_setWidth_addr, BitVec.toNat_setWidth]
    omega
  have hdec : decode (0x1000 ||| s.pc) = .ok (.jp (s.pc.setWidth 12)) := by
    have hjp := decode_encode (i := .jp (s.pc.setWidth 12)) rfl
    rwa [encode_jp_eq_or, haddr] at hjp
  simp only [runInstruction, h.self_jump, hdec]
  exact congrArg (fun w => Host.Outcome.next (s.setPc w)) haddr

/-- The enabled core's turn in a park uses up the turn and changes nothing else (R250). -/
theorem step_of_park {s : State} (h : s.Park) (hturn : s.nextTurn = .core) (hquit : s.quit = false) :
    step s = .next s.turnUsed :=
  (step_of_coreReady ⟨hturn, hquit, h.running⟩).trans (runInstruction_of_park (s := s.turnUsed) h.congr)

/-- No agent's turn ends a park: the core jumps back, and the others write nothing that a park is about. -/
theorem park_of_step {s t : State} (hpark : s.Park) (h : step s = .next t) : t.Park := by
  rcases step_cases h with ⟨-, hcore⟩ | ⟨-, rfl⟩ | ⟨k, -, rfl⟩ | ⟨-, rfl⟩ | ⟨-, rfl⟩
  · have hparked : s.turnUsed.Park := hpark.congr
    obtain ⟨-, -, hrun⟩ := coreStep_next hcore
    cases (runInstruction_of_park hparked).symm.trans hrun
    exact hparked
  all_goals exact hpark.congr

/-- With no turn scheduled there is none to use up. -/
theorem turnUsed_of_schedule_nil {s : State} (h : s.schedule = []) : s.turnUsed = s := by
  rw [State.turnUsed, h, List.tail_nil, ← h]

/-- A step that answers its own state can be taken any number of times. -/
theorem run_of_step_self {s : State} (h : step s = .next s) (n : Nat) : core.run n s = .next s := by
  induction n with
  | zero => rfl
  | succ n ih => exact (run_next h).trans ih

/-- Settles O35: the core's turn in a park answers the same state, and a run is that turn repeated. -/
theorem parkedCoreNeverLeaves : Obligations.ParkedCoreNeverLeaves := by
  refine fun s hpark => ⟨step_of_park hpark, fun t => park_of_step hpark, fun hquit hsched => ?_⟩
  have hturn : s.nextTurn = .core := by rw [State.nextTurn, hsched, List.headD_nil]
  have hstep := step_of_park hpark hturn hquit
  rw [turnUsed_of_schedule_nil hsched] at hstep
  exact run_of_step_self hstep

end Sys2Proof.Machine
end
